-- ==== Sys2Proof/Word.lean ====
section
/-! DEFINITION. The bit-vector types of the PRNG_engine (00_scope.md R5): each is a vector the spec itself numbers bit
by bit. Nothing else of the model is a bit vector. -/

namespace Sys2Proof

/-- `u64`: the value of the state register `seed` (R5, R10). -/
abbrev U64 := BitVec 64

/-- `u32`, `s32` or `f32`: a 32-bit operand, result or raw draw (R5). The rule that reads it says which reading holds. -/
abbrev U32 := BitVec 32

/-- The 4-bit `op` field of a command word (R40). -/
abbrev Opcode := BitVec 4

/-- A 68-bit command word, op in bits 67:64, b in bits 63:32, a in bits 31:0 (R40). -/
abbrev CommandWord := BitVec 68

/-- A 34-bit response word, st in bits 33:32, res in bits 31:0 (R41). -/
abbrev ResponseWord := BitVec 34

/-- One byte of a byte-wide transport (R26). The block itself has no bytes. -/
abbrev Byte := BitVec 8

end Sys2Proof
end

