-- ==== Sys2Proof/Config.lean ====
section
/-! DEFINITION. What an implementation of the block fixes and the model leaves FREE: constants with no body, so that no
proof can see their value. The parameters of R4 that have a value stand as named constants in
Sys2Proof/Machine/Params.lean, where a corrected literal is a one-line change (93_implementation_defined.md U9). -/

namespace Sys2Proof.Config

/-- FREE VALUE (R20, R140; assumption log 2): the 64 bits `seed` holds after the `n`-th assertion of `rst` in a run of the
model. The spec says it may be any 64-bit value and need not be the same after two resets. DESIGN CHOICE: it depends on `n` alone, so the
same `n` gives the same value in every block and every run, which the spec does not say (log 2). -/
opaque seedAfterReset : Nat → U64

/-- FREE VALUE (R4 `LAT(op)`, R150; assumption log 7): `LAT(op) - 1`. Taking one away makes every latency at least 1, the
one bound the spec gives. -/
opaque latencyBeyondOne : Opcode → Nat

/-- R4 `SEED_W`, decision D7: the width of the signed integer a host's seed is held in. 64 at the port; a model that
restricts seeds gives a smaller number here. -/
abbrev seedWidth : Nat := 64

end Sys2Proof.Config
end

