-- ==== Sys2Proof/Syntax.lean ====
section
/-! DEFINITION. The commands of the block, one constructor per row of spec/opcode_table.json (30_encoding.md R42, R44),
and the abstract syntax of the spec's assembly notation (R48) with its two pseudo-instructions (R49). Operand bits a command ignores
are not carried: two words that differ only there are the same command (R45, U15). -/

namespace Sys2Proof

/-- The seven commands of the PRNG_engine command set, revision 1 (R1, R9, R42). -/
inductive Instr where
  /-- SEED (R64): `ab` is `cmd[63:0]`, a signed 64-bit integer in two's complement. -/
  | seed (ab : U64)
  /-- NEXTRAW (R65): no operand. -/
  | nextRaw
  /-- NEXTBOOL (R75): no operand. -/
  | nextBool
  /-- NEXTINT_U (R76): `range` is `cmd[31:0]`, unsigned. -/
  | nextIntU (range : U32)
  /-- NEXTINT_S (R77): `a` is `cmd[31:0]` and `b` is `cmd[63:32]`, both signed. -/
  | nextIntS (a b : U32)
  /-- NEXTFLOAT (R93): no operand. -/
  | nextFloat
  /-- NEXTFLOAT_AB (R94): `a` is `cmd[31:0]` and `b` is `cmd[63:32]`, both binary32 patterns. -/
  | nextFloatAB (a b : U32)
deriving DecidableEq, Repr

/-- A number as an assembly line writes it (R48): decimal with an optional minus sign, or a hexadecimal bit pattern. -/
inductive Literal where
  | dec (v : Int)
  | hex (pattern : Nat)
deriving DecidableEq, Repr

/-- One line of assembly (R48), the pseudo-instructions SEED32 and RANDOMSHUFFLE (R49) among them. Operands stand in the
order the line lists them, `a` before `b`. -/
inductive Asm where
  | seed (v : Literal)
  | seed32 (v : Literal)
  | nextRaw
  | nextBool
  | nextIntU (range : Literal)
  | nextIntS (a b : Literal)
  | nextFloat
  | nextFloatAB (a b : Literal)
  /-- `seq` only names the host's sequence: no command word depends on it (R113). -/
  | randomShuffle (seq : String) (n : Literal)
deriving DecidableEq, Repr

end Sys2Proof
end

