-- ==== Sys2Proof/WellFormed.lean ====
section
/-! DEFINITION. Which commands and which assembly lines are well formed. Every operand field of a command admits every
value (R40, R44, R45), so the only check on a command is the parameter `SEED_W` of R4 (U19); an assembly line is checked for
the ranges R48 and R49 give its literals. -/

namespace Sys2Proof

/-- The operands of SEED that a host with a `w`-bit signed seed can produce: those equal to the sign extension of their
low `w` bits (R44, decision D7, U19). -/
def seedFits (w : Nat) (ab : U64) : Bool :=
  ab == (ab.setWidth w).signExtend 64

/-- A command is well formed for a seed width `w`: SEED carries an operand that width can produce. -/
def Instr.wellFormedAt (w : Nat) : Instr → Bool
  | .seed ab => seedFits w ab
  | .nextRaw => true
  | .nextBool => true
  | .nextIntU _ => true
  | .nextIntS _ _ => true
  | .nextFloat => true
  | .nextFloatAB _ _ => true

/-- A command is well formed for the block's own `SEED_W`. -/
def Instr.wellFormed (i : Instr) : Bool :=
  i.wellFormedAt Config.seedWidth

/-- A signed operand of `w` bits (R48): a decimal integer in the two's-complement range, or a pattern of `w` bits. -/
def Literal.fitsSigned (w : Nat) : Literal → Bool
  | .dec v => decide (-(2 ^ (w - 1) : Int) ≤ v ∧ v < 2 ^ (w - 1))
  | .hex p => decide (p < 2 ^ w)

/-- An unsigned operand of `w` bits (R48). R48 gives the minus sign to signed operands only; DESIGN CHOICE (log 16): a literal is
judged by its value, so that `-0` is the unsigned 0, and every other negative number is refused. -/
def Literal.fitsUnsigned (w : Nat) : Literal → Bool
  | .dec v => decide (0 ≤ v ∧ v < 2 ^ w)
  | .hex p => decide (p < 2 ^ w)

/-- A binary32 operand is written as its hexadecimal bit pattern, never as a decimal fraction (R48). -/
def Literal.fitsFloat : Literal → Bool
  | .dec _ => false
  | .hex p => decide (p < 2 ^ 32)

/-- An assembly line is well formed when each literal fits its operand. RANDOMSHUFFLE takes a length of at most
`N_MAX = 2^32 - 1`, which is exactly an unsigned 32-bit number (R4, R110, decision D20). -/
def Asm.wellFormed : Asm → Bool
  | .seed v => v.fitsSigned 64
  | .seed32 v => v.fitsSigned 32
  | .nextRaw => true
  | .nextBool => true
  | .nextIntU range => range.fitsUnsigned 32
  | .nextIntS a b => a.fitsSigned 32 && b.fitsSigned 32
  | .nextFloat => true
  | .nextFloatAB a b => a.fitsFloat && b.fitsFloat
  | .randomShuffle _ n => n.fitsUnsigned 32

end Sys2Proof
end

