-- ==== Sys2Proof/Decode.lean ====
section
/-! DEFINITION. From a 68-bit command word to a command and back (30_encoding.md R40 to R50), and the little-endian bytes
of a byte-wide transport (20_memory.md R26, decision D23). Decoding is total: a word that is no command is rejected by
name. -/

namespace Sys2Proof

/-! ## The fields of a command word (R40) -/

/-- `op = cmd[67:64]`. -/
def opField (w : CommandWord) : Opcode := w.extractLsb' 64 4

/-- `b = cmd[63:32]`. -/
def bField (w : CommandWord) : U32 := w.extractLsb' 32 32

/-- `a = cmd[31:0]`. -/
def aField (w : CommandWord) : U32 := w.extractLsb' 0 32

/-- `ab = cmd[63:0]`, the two operand fields read together, `b` high (R26, R40). -/
def abField (w : CommandWord) : U64 := w.extractLsb' 0 64

/-- The command word with these fields (R40). -/
def packWord (op : Opcode) (b a : U32) : CommandWord := op ++ b ++ a

/-! ## Decoding (R42, R50) -/

/-- Why bytes or a word are no command. -/
inductive DecodeError where
  /-- `op` is 0 or 8 to 15: the block answers such a word with ERR_ILLEGAL_CMD (R46). -/
  | reservedOpcode (op : Opcode)
  /-- Fewer than the nine bytes a word takes on a byte-wide transport (R26). -/
  | tooFewBytes (got : Nat)
  /-- The top byte's four padding bits are not zero (R26). -/
  | paddingNotZero
deriving DecidableEq, Repr

/-- What the decoder answers. -/
inductive Decoded where
  | instr (i : Instr)
  | rejected (e : DecodeError)
deriving DecidableEq, Repr

/-- The instruction, if there is one. -/
def Decoded.instr? : Decoded → Option Instr
  | .instr i => some i
  | .rejected _ => none

/-- Decode of a 68-bit word (R42, R44, R50). It looks at `op` alone and reads nothing but the word. -/
def decode (w : CommandWord) : Decoded :=
  match (opField w).toNat with
  | 1 => .instr (.seed (abField w))
  | 2 => .instr .nextRaw
  | 3 => .instr .nextBool
  | 4 => .instr (.nextIntU (aField w))
  | 5 => .instr (.nextIntS (aField w) (bField w))
  | 6 => .instr .nextFloat
  | 7 => .instr (.nextFloatAB (aField w) (bField w))
  | _ => .rejected (.reservedOpcode (opField w))

/-! ## Encoding (R42, R48) -/

/-- The opcode number of a command (R42). -/
def Instr.opcode : Instr → Opcode
  | .seed _ => 1
  | .nextRaw => 2
  | .nextBool => 3
  | .nextIntU _ => 4
  | .nextIntS _ _ => 5
  | .nextFloat => 6
  | .nextFloatAB _ _ => 7

/-- The `b` field an assembler writes: zero where the command ignores it (R45, R48). -/
def Instr.bOperand : Instr → U32
  | .seed ab => ab.extractLsb' 32 32
  | .nextIntS _ b => b
  | .nextFloatAB _ b => b
  | .nextRaw => 0
  | .nextBool => 0
  | .nextIntU _ => 0
  | .nextFloat => 0

/-- The `a` field an assembler writes: zero where the command ignores it (R45, R48). -/
def Instr.aOperand : Instr → U32
  | .seed ab => ab.extractLsb' 0 32
  | .nextIntU range => range
  | .nextIntS a _ => a
  | .nextFloatAB a _ => a
  | .nextRaw => 0
  | .nextBool => 0
  | .nextFloat => 0

/-- The word of a command, ignored fields zero (R48). -/
def encode (i : Instr) : CommandWord :=
  packWord i.opcode i.bOperand i.aOperand

/-- The operand bits a command uses, by its opcode number (R45): SEED, NEXTINT_S and NEXTFLOAT_AB all 64, NEXTINT_U the
low 32, NEXTRAW, NEXTBOOL and NEXTFLOAT none. A reserved opcode is illegal whatever its operand bits (R46). -/
def usedOperandBits (op : Opcode) : U64 :=
  match op.toNat with
  | 1 => BitVec.allOnes 64
  | 4 => 0x00000000FFFFFFFF
  | 5 => BitVec.allOnes 64
  | 7 => BitVec.allOnes 64
  | _ => 0

/-! ## Bytes of a byte-wide transport (R26, decision D23)

Byte `k` carries bits `8k+7 : 8k` and the top byte is zero-padded: nine bytes for a command word, five for a response
word. -/

/-- The `n` little-endian bytes of a number. -/
def littleEndianBytes : Nat → Nat → List Byte
  | 0, _ => []
  | n + 1, v => BitVec.ofNat 8 v :: littleEndianBytes n (v / 256)

/-- The number little-endian bytes stand for. -/
def littleEndianValue : List Byte → Nat
  | [] => 0
  | b :: bs => b.toNat + 256 * littleEndianValue bs

/-- The nine bytes of a command word. -/
def commandBytes (w : CommandWord) : List Byte :=
  littleEndianBytes 9 w.toNat

/-- The five bytes of a response word. -/
def responseBytes (r : ResponseWord) : List Byte :=
  littleEndianBytes 5 r.toNat

/-- The command word in the first nine bytes and the bytes after it. -/
def wordOfBytes (bytes : List Byte) : Except DecodeError (CommandWord × List Byte) :=
  if bytes.length < 9 then .error (.tooFewBytes bytes.length)
  else if littleEndianValue (bytes.take 9) < 2 ^ 68 then
    .ok (BitVec.ofNat 68 (littleEndianValue (bytes.take 9)), bytes.drop 9)
  else .error .paddingNotZero

/-- Decode of a command presented as bytes: total on any bytes. -/
def decodeBytes (bytes : List Byte) : Decoded :=
  match wordOfBytes bytes with
  | .ok (w, _) => decode w
  | .error e => .rejected e

/-- The host's question about one row of the opcode table: bit 0 of `w` is bit 0 of the command word, and bits at or above
`nbits` are zero. The word is laid out as the nine bytes of R26 and given to the decoder. -/
def decodeTableWord (nbits w : Nat) : Option Instr :=
  (decodeBytes (littleEndianBytes 9 (w % 2 ^ nbits))).instr?

end Sys2Proof
end

