-- ==== Sys2Proof/Machine/Params.lean ====
section
/-! DEFINITION. The parameters of 00_scope.md R4 that have a value. "fixed by source" literals are unaudited against the
repository (93_implementation_defined.md U9): each stands once, here, under the name R4 gives it. -/

namespace Sys2Proof.Config

/-- R4 `M`: the multiplier of the transition (R60). -/
def multiplier : U64 := 0x9b60933458e17d7d

/-- R4 `A`: the addend of the transition (R60). -/
def addend : U64 := 0xd737232eeccdf7ed

/-- R67 `M_inv`: the inverse of `M` modulo 2^64. -/
def multiplierInverse : U64 := 0x96df8271082ca3d5

/-- R4 `SHIFT_BASE`: the constant the shift selector is subtracted from (R61). -/
def shiftBase : Nat := 29

/-- R4 `SHIFT_SEL_LSB`: the lowest bit of the shift selector `seed[63:61]` (R61). -/
def shiftSelectorLsb : Nat := 61

/-- R4 `BOOL_BIT`: the bit of the raw draw NEXTBOOL returns (R75). -/
def boolBit : Nat := 2

/-- R4 `FLOAT_ADJ`: the constant subtracted from a binary32 bit pattern (R93). -/
def floatAdjustment : U32 := 0x10000000

/-- R4 `NAN_RESULT` (decision D13): the one NaN the block produces (R91). -/
def nanResult : U32 := 0x7FC00000

/-- R4 `N_MAX` (decision D20): the longest sequence RANDOMSHUFFLE handles (R110). -/
def shuffleMax : Nat := 2 ^ 32 - 1

/-- R4 `LAT(op)`: cycles from acceptance of a command to its response, open but at least 1 (R150). -/
def latency (op : Opcode) : Nat := latencyBeyondOne op + 1

end Sys2Proof.Config
end

