-- ==== Sys2Proof/Machine/State.lean ====
section
/-! DEFINITION. The state of one block and of the host that drives it, as plain data (10_state.md, 30_encoding.md R43,
70_reset_and_hazards.md R140, R151). The hardware's own state is `seed` and the command in flight; every other field is
the host's or the model's, and its docstring says so. -/

namespace Sys2Proof.Machine

/-- The status codes of a response that the block produces (R41, R120). Code 3 is reserved and never produced
(decision D28), so it has no constructor. -/
inductive Status where
  | ok
  | errIllegalCmd
  | errOperand
deriving DecidableEq, Repr

/-- One response (R41): its status and its 32-bit result. -/
structure Response where
  st : Status
  res : U32
deriving DecidableEq, Repr

/-- The command in flight (R43): the response it will be answered with, and how many cycles remain before the block raises
`rsp_valid`. With `cyclesLeft = 0` the block holds `rsp` and `rsp_valid` until delivery. -/
structure InFlight where
  rsp : Response
  cyclesLeft : Nat
deriving DecidableEq, Repr

/-- What the host does next at the command channel (R8, R12, R140). -/
inductive HostEvent where
  /-- The host presents this command word. -/
  | command (w : CommandWord)
  /-- The host asserts `rst` for at least one edge and releases it. -/
  | reset
deriving DecidableEq, Repr

/-- Why a run no longer meets the premises of a claim about it (R123, R151, U1 to U4). The hardware keeps no such mark
(R13). -/
inductive RunFault where
  /-- A response had `st = 1` (U4). -/
  | illegalCommand
  /-- A response had `st = 2` (U1, U2). -/
  | operandError
  /-- A draw was made before the first SEED after a reset (U3). -/
  | drawBeforeSeed
deriving DecidableEq, Repr

/-- The whole state a step reads and writes. -/
structure State where
  /-- HARDWARE (R10): the state register. -/
  seed : U64
  /-- HARDWARE (R43, R140): the command in flight, none when the block is idle. -/
  inFlight : Option InFlight
  /-- THE HOST'S (R8, R12, R151): what the host does next, in order. -/
  pending : List HostEvent
  /-- THE HOST'S (R151): the responses delivered in this run, oldest first. -/
  responses : List Response
  /-- THE MODEL'S (R20, R141; log 3): SEED has been issued since the last reset. The hardware has no such bit (R13). -/
  seedWritten : Bool
  /-- THE MODEL'S (R13, R123; log 4): the first reason this run left the premises of a claim, kept for the rest of the
  run. -/
  runFault : Option RunFault
  /-- THE MODEL'S (log 2): how often `rst` was asserted, the index of the next free value. -/
  resetCount : Nat
deriving DecidableEq, Repr

/-- Reasons the machine stops with a fault. There is none: the spec gives every command word, in every state, an effect
after which the block goes on (R46, R120, R127), and it has no trap (R126). What a model is asked to count as a faulted run
(R123) is the mark `State.runFault`, and the run goes on. Having no constructor is safe: no claim can be proved from a stop
the hardware does not have. -/
inductive Fault where
deriving DecidableEq, Repr

/-- Reasons the machine refuses an instruction. -/
inductive Refusal where
  /-- Raised only by a refused arm of `exec`, for an instruction that has no meaning yet; safe, since nothing is then
  claimed of it. No arm is refused. -/
  | notModelled (mnemonic : String)
deriving DecidableEq, Repr

/-- Right after reset (R140, R151): no command in flight, nothing presented, nothing answered. R20 leaves `seed`
unspecified: its value here, 0, is a DESIGN CHOICE (log 1), and `seedWritten` says that it means nothing yet. -/
def State.reset : State where
  seed := 0
  inFlight := none
  pending := []
  responses := []
  seedWritten := false
  runFault := none
  resetCount := 0

end Sys2Proof.Machine
end

