-- ==== Sys2Proof/Machine/Flags.lean ====
section
/-! DEFINITION. The block has no status flags and no condition codes (R13, R99): the outcome of a command is carried only
by the status field of its own response. This file gives that field its codes and builds the response word (R41). -/

namespace Sys2Proof.Machine

/-- The 2-bit status code (R41). -/
def Status.code : Status → BitVec 2
  | .ok => 0
  | .errIllegalCmd => 1
  | .errOperand => 2

/-- The 34-bit response word, st in bits 33:32 and res in bits 31:0 (R41). -/
def Response.word (r : Response) : ResponseWord :=
  r.st.code ++ r.res

/-- A successful response. -/
def Response.okay (res : U32) : Response := ⟨.ok, res⟩

/-- The response of a command that ends in the error `st`: `res` is zero and carries no information (R41, R120). -/
def Response.error (st : Status) : Response := ⟨st, 0⟩

/-- The mark R123 asks a model to keep for a status, none for OK. -/
def Status.runFault : Status → Option RunFault
  | .ok => none
  | .errIllegalCmd => some .illegalCommand
  | .errOperand => some .operandError

end Sys2Proof.Machine
end

