-- ==== Sys2Proof/Machine/Operands.lean ====
section
/-! DEFINITION. How a command's operand patterns are read, and the integer operations of the samplers on them
(41_int_samplers.md R76 to R78). An operand is taken from the command word by Sys2Proof/Decode.lean (R44); the readings
stand here. -/

namespace Sys2Proof.Machine

/-- `lt_s32(x, y)`: the signed reading of `x` is less than that of `y` (R6, R78). -/
def ltS32 (x y : U32) : Bool := x.slt y

/-- `n = (b -_32 a) +_32 1`: the count of integers in [a, b] modulo 2^32 (R77). -/
def rangeCount (a b : U32) : U32 := b - a + 1

/-- `umod(raw, m)`: the unsigned remainder (R6, R78). Every rule that uses it excludes `m = 0` first. -/
def umod (raw m : U32) : U32 := raw % m

/-- The operand check of NEXTINT_U (R76, R122). -/
def rangeOk (range : U32) : Bool := range != 0

/-- The operand checks of NEXTINT_S, in the order R125 gives them: `b < a`, then `n = 0` (R77, R122). -/
def boundsOk (a b : U32) : Bool := !ltS32 b a && rangeCount a b != 0

/-- The result of NEXTBOOL from a raw draw: `zext_32(raw[2])` (R75). -/
def boolResult (raw : U32) : U32 := (BitVec.ofBool (raw.getLsbD Config.boolBit)).setWidth 32

/-- The result of NEXTINT_U from a raw draw (R76). -/
def intUResult (raw range : U32) : U32 := umod raw range

/-- The result of NEXTINT_S from a raw draw: `r +_32 a` (R77). -/
def intSResult (raw a b : U32) : U32 := umod raw (rangeCount a b) + a

end Sys2Proof.Machine
end

