-- ==== Sys2Proof/Machine/Float32.lean ====
section
/-! DEFINITION. The binary32 arithmetic of the bounded_float_sampler (42_float_samplers.md R90 to R94, R99; decisions D11
to D14): the format, the conversion from an unsigned 32-bit integer, and addition, subtraction and multiplication, each rounded
once to nearest, ties to even, with gradual underflow and one NaN. All intermediate values are exact integers times a power of
two. -/

namespace Sys2Proof.Machine

/-! ## The format (R92) -/

/-- `w[31]`: the sign, true for negative. -/
def f32Sign (w : U32) : Bool := w.getLsbD 31

/-- `E = w[30:23]`: the biased exponent field. -/
def f32Exponent (w : U32) : Nat := (w.extractLsb' 23 8).toNat

/-- `F = w[22:0]`: the fraction field. -/
def f32Fraction (w : U32) : Nat := (w.extractLsb' 0 23).toNat

/-- A NaN, quiet or signalling: the block treats both alike. -/
def f32IsNaN (w : U32) : Bool := f32Exponent w == 255 && f32Fraction w != 0

/-- An infinity of either sign. -/
def f32IsInf (w : U32) : Bool := f32Exponent w == 255 && f32Fraction w == 0

/-- A zero of either sign. -/
def f32IsZero (w : U32) : Bool := f32Exponent w == 0 && f32Fraction w == 0

/-- A zero, subnormal or normal value. -/
def f32IsFinite (w : U32) : Bool := f32Exponent w != 255

/-- The integer significand of a finite value: `F` when subnormal or zero, `2^23 + F` when normal. -/
def f32Significand (w : U32) : Nat :=
  if f32Exponent w = 0 then f32Fraction w else 2 ^ 23 + f32Fraction w

/-- The power of two of a finite value's significand: `-149` when subnormal or zero, `E - 150` when normal. -/
def f32Scale (w : U32) : Int :=
  if f32Exponent w = 0 then -149 else (f32Exponent w : Int) - 150

/-- The pattern with these fields: sign, exponent field, fraction field. -/
def packF32 (neg : Bool) (exponent fraction : Nat) : U32 :=
  BitVec.ofBool neg ++ BitVec.ofNat 8 exponent ++ BitVec.ofNat 23 fraction

/-- The infinity of a sign. -/
def f32Inf (neg : Bool) : U32 := packF32 neg 255 0

/-! ## Rounding to nearest, ties to even (R90, R91) -/

/-- The integer nearest to `m / 2^k`, a tie to the even one. -/
def roundHalfEven (m k : Nat) : Nat :=
  let q := m / 2 ^ k
  let twiceRem := 2 * (m % 2 ^ k)
  if 2 ^ k < twiceRem ∨ (twiceRem = 2 ^ k ∧ q % 2 = 1) then q + 1 else q

/-- The integer nearest to `m / 2^sh` for a shift of either sign: a negative shift is exact. -/
def roundScaled (m : Nat) (sh : Int) : Nat :=
  if sh ≤ 0 then m * 2 ^ (-sh).toNat else roundHalfEven m sh.toNat

/-- The last three lines of `round_f32` (R91): overflow to infinity, a subnormal or zero, or a normal value, for the
rounded significand `n` whose leading exponent is `e`. -/
def assembleF32 (neg : Bool) (n : Nat) (e : Int) : U32 :=
  if 127 < e then f32Inf neg
  else if n < 2 ^ 23 then packF32 neg 0 n
  else packF32 neg (e + 127).toNat n

/-- `round_f32` (R91) of the exact rational `±m * 2^p`: `neg` is its sign, and the sign of an exact zero. -/
def roundF32 (neg : Bool) (m : Nat) (p : Int) : U32 :=
  if m = 0 then packF32 neg 0 0
  else
    let e := max ((Nat.log2 m : Int) + p) (-126)
    let n := roundScaled m (e - 23 - p)
    if n = 2 ^ 24 then assembleF32 neg (2 ^ 23) (e + 1) else assembleF32 neg n e

/-! ## The conversion (R90) -/

/-- `u32_to_f32(v)` (R90, decision D11), for `v` not 0: `k` is the position of the highest set bit. No rule applies it
to 0. -/
def u32ToF32 (v : U32) : U32 :=
  let k := Nat.log2 v.toNat
  let q := if k ≤ 23 then v.toNat * 2 ^ (23 - k) else roundHalfEven v.toNat (k - 23)
  if q = 2 ^ 24 then packF32 false (127 + (k + 1)) (2 ^ 23) else packF32 false (127 + k) q

/-- `Unit(raw)` (R93): zero for a zero draw, otherwise an integer subtraction on the converted value's bit pattern. -/
def unitF32 (raw : U32) : U32 :=
  if raw = 0 then 0 else u32ToF32 raw - Config.floatAdjustment

/-! ## The operations (R91) -/

/-- The signed integer a finite value stands for in units of `2^p`, for `p` at most its own scale. -/
def f32Units (w : U32) (p : Int) : Int :=
  let m : Int := (f32Significand w * 2 ^ (f32Scale w - p).toNat : Nat)
  if f32Sign w then -m else m

/-- The sum of two finite values: exact, then rounded once. An exact zero is `-0` only when both operands are negative
zeros. -/
def f32AddFinite (x y : U32) : U32 :=
  let p := min (f32Scale x) (f32Scale y)
  let z := f32Units x p + f32Units y p
  if z = 0 then packF32 (f32Sign x && f32Sign y) 0 0
  else roundF32 (decide (z < 0)) z.natAbs p

/-- `f32_add(x, y)` (R91). -/
def f32Add (x y : U32) : U32 :=
  if f32IsNaN x || f32IsNaN y then Config.nanResult
  else if f32IsInf x && f32IsInf y then
    if f32Sign x == f32Sign y then x else Config.nanResult
  else if f32IsInf x then x
  else if f32IsInf y then y
  else f32AddFinite x y

/-- `y` with bit 31 inverted. -/
def f32Negate (y : U32) : U32 := y ^^^ 0x80000000

/-- `f32_sub(x, y)` (R91). -/
def f32Sub (x y : U32) : U32 :=
  if f32IsNaN x || f32IsNaN y then Config.nanResult
  else f32Add x (f32Negate y)

/-- `f32_mul(x, y)` (R91). -/
def f32Mul (x y : U32) : U32 :=
  let neg := f32Sign x != f32Sign y
  if f32IsNaN x || f32IsNaN y then Config.nanResult
  else if f32IsInf x || f32IsInf y then
    if f32IsZero x || f32IsZero y then Config.nanResult else f32Inf neg
  else roundF32 neg (f32Significand x * f32Significand y) (f32Scale x + f32Scale y)

/-- The result of NEXTFLOAT_AB from a raw draw (R94): three operations, each rounded once, the multiply and the add not
fused (decision D12). -/
def floatABResult (raw a b : U32) : U32 :=
  f32Add (f32Mul (unitF32 raw) (f32Sub b a)) a

end Sys2Proof.Machine
end

