-- ==== Sys2Proof/Machine/Ops.lean ====
section
/-! DEFINITION. The named operations over the state: the transition and the extractor (40_engine.md R60 to R63), writing
`seed`, answering, ending a command in an error response, delivering a response, and reset. Ending a command in an error
response is the block's only exception (60_exceptions.md R120); it saves nothing and transfers no control (R126), and there is no
return from it (R127). -/

namespace Sys2Proof.Machine

/-! ## The engine's arithmetic (R60 to R62, R68) -/

/-- `T`: the transition, `seed *_64 M +_64 A` (R60). The constants stand on the left, where modulo 2^64 they may as well
stand, so that evaluation on an unknown `x` stops at once. -/
def transition (x : U64) : U64 := Config.addend + Config.multiplier * x

/-- `t = seed[63:61]` (R61). -/
def shiftSelector (x : U64) : Nat := (x >>> Config.shiftSelectorLsb).toNat

/-- `s = 29 - t`, a number from 22 to 29 (R61). -/
def shiftAmount (x : U64) : Nat := Config.shiftBase - shiftSelector x

/-- `X`: the extractor, `trunc_32(seed >> s)`, of an updated state (R62). -/
def extract (x : U64) : U32 := (x >>> shiftAmount x).setWidth 32

/-- The state before a draw that left `x` (R67). -/
def untransition (x : U64) : U64 := (x - Config.addend) * Config.multiplierInverse

/-! ## Updates of the state -/

/-- `seed <- v` by SEED (R64): the whole register. -/
def State.loadSeed (s : State) (v : U64) : State :=
  { s with seed := v, seedWritten := true }

/-- The mark a model keeps (R123): the first one stays for the rest of the run. -/
def State.markFault (s : State) (f : RunFault) : State :=
  { s with runFault := s.runFault.or (some f) }

/-- The mark for a draw that reads a `seed` nothing has written since the reset (R20, R141, U3). The draw itself is made:
the hardware computes it (R20). -/
def State.markDraw (s : State) : State :=
  if s.seedWritten then s else s.markFault .drawBeforeSeed

/-- What a draw leaves of the state (R63): the full 64-bit updated `seed`. -/
def State.afterDraw (s : State) : State :=
  { s.markDraw with seed := transition s.seed }

/-- What a draw returns (R63): the extractor on the NEW `seed`. -/
def State.drawValue (s : State) : U32 := extract (transition s.seed)

/-- `respond(st, res)` (R6, R41): the command's response is ready at the response channel. -/
def State.respond (s : State) (r : Response) : State :=
  { s with inFlight := some ⟨r, 0⟩ }

/-- The response of the command in flight. -/
def State.answer (s : State) : Option Response := s.inFlight.map InFlight.rsp

/-- A command ends in an error response (R120, R126): `seed` unchanged, no draw, `res = 0`, nothing left behind in the
block. The run's mark is the model's (R123). -/
def State.raiseError (s : State) (st : Status) : State :=
  { s with runFault := s.runFault.or st.runFault }.respond (.error st)

/-- A sampler: one draw, then the response computed from its value (R63, R66). -/
def State.sample (s : State) (result : U32 → U32) : State :=
  s.afterDraw.respond (.okay (result s.drawValue))

/-- The host accepts the response (R43): it joins the run's observation and the block is idle. -/
def State.deliver (s : State) : State :=
  match s.inFlight with
  | none => s
  | some f => { s with inFlight := none, responses := s.responses ++ [f.rsp] }

/-- Reset (R140, R20): a command in flight is abandoned without a response, `seed` is unspecified, and a new run starts
(R151). `seed` takes a free value.

DESIGN CHOICE (log 2): R20 and R133 leave each such value open by itself. The free value here depends on the count of resets
alone, so two blocks, two runs, or two states of one block that have been reset equally often provably take the SAME `seed`.
No rule gives that equality, and no statement rests on it. -/
def State.hardReset (s : State) : State :=
  { s with
    seed := Config.seedAfterReset s.resetCount
    inFlight := none
    responses := []
    seedWritten := false
    runFault := none
    resetCount := s.resetCount + 1 }

/-- The host's first event is taken. -/
def State.takeEvent (s : State) : State :=
  { s with pending := s.pending.tail }

end Sys2Proof.Machine
end

