-- ==== Sys2Proof/Machine/Engine.lean ====
section
/-! DEFINITION. The meanings of the engine's two commands, SEED and NEXTRAW (40_engine.md R64, R65). -/

namespace Sys2Proof.Machine

/-- SEED (R64): the 64-bit pattern is kept, now read as unsigned; no draw; the answer is OK with `res = 0`. -/
def execSeed (ab : U64) (s : State) : Host.Outcome State Fault Refusal :=
  .next ((s.loadSeed ab).respond (.okay 0))

/-- NEXTRAW (R65): one draw, answered as it is. -/
def execNextRaw (s : State) : Host.Outcome State Fault Refusal :=
  .next (s.sample fun raw => raw)

end Sys2Proof.Machine
end

