-- ==== Sys2Proof/Machine/FloatSampler.lean ====
section
/-! DEFINITION. The meanings of the bounded_float_sampler's commands (42_float_samplers.md R93, R94). Neither has a
precondition and neither ever answers an error (R99). -/

namespace Sys2Proof.Machine

/-- NEXTFLOAT (R93). -/
def execNextFloat (s : State) : Host.Outcome State Fault Refusal :=
  .next (s.sample unitF32)

/-- NEXTFLOAT_AB (R94). -/
def execNextFloatAB (a b : U32) (s : State) : Host.Outcome State Fault Refusal :=
  .next (s.sample fun raw => floatABResult raw a b)

end Sys2Proof.Machine
end

