-- ==== Sys2Proof/Machine/IntSampler.lean ====
section
/-! DEFINITION. The meanings of the uniform_int_sampler's commands (41_int_samplers.md R75 to R77). The operand checks come
before the draw (R80). -/

namespace Sys2Proof.Machine

/-- NEXTBOOL (R75). -/
def execNextBool (s : State) : Host.Outcome State Fault Refusal :=
  .next (s.sample boolResult)

/-- NEXTINT_U (R76): a zero range ends in ERR_OPERAND without a draw. -/
def execNextIntU (range : U32) (s : State) : Host.Outcome State Fault Refusal :=
  if rangeOk range then .next (s.sample fun raw => intUResult raw range)
  else .next (s.raiseError .errOperand)

/-- NEXTINT_S (R77): `b < a`, or the full 32-bit range, ends in ERR_OPERAND without a draw. -/
def execNextIntS (a b : U32) (s : State) : Host.Outcome State Fault Refusal :=
  if boundsOk a b then .next (s.sample fun raw => intSResult raw a b)
  else .next (s.raiseError .errOperand)

end Sys2Proof.Machine
end

