-- ==== Sys2Proof/Machine/Dispatch.lean ====
section
/-! DEFINITION. One arm per command, in the order of spec/opcode_table.json (R42). -/

namespace Sys2Proof.Machine

def exec (i : Instr) (s : State) : Host.Outcome State Fault Refusal :=
  match i with
  | .seed ab => Sys2Proof.Machine.execSeed ab s
  | .nextRaw => Sys2Proof.Machine.execNextRaw s
  | .nextBool => Sys2Proof.Machine.execNextBool s
  | .nextIntU range => Sys2Proof.Machine.execNextIntU range s
  | .nextIntS a b => Sys2Proof.Machine.execNextIntS a b s
  | .nextFloat => Sys2Proof.Machine.execNextFloat s
  | .nextFloatAB a b => Sys2Proof.Machine.execNextFloatAB a b s

end Sys2Proof.Machine
end

