-- ==== Sys2Proof/Machine/Transact.lean ====
section
/-! DEFINITION. One whole transaction at the channels: a command word is accepted, decoded, executed and answered as one
atomic step (00_scope.md R7, R8; 20_memory.md R31; 30_encoding.md R43, R46, R50). -/

namespace Sys2Proof.Machine

/-- The block executes an accepted word (R50): the command it names, or ERR_ILLEGAL_CMD for a reserved opcode, whose
operand fields are not examined (R46, R121, R125). -/
def runWord (w : CommandWord) (s : State) : Host.Outcome State Fault Refusal :=
  match decode w with
  | .instr i => exec i s
  | .rejected _ => .next (s.raiseError .errIllegalCmd)

/-- `f` on what comes next, if the outcome has it. -/
def onNext {α β : Type} (o : Host.Outcome α Fault Refusal) (f : α → β) : Host.Outcome β Fault Refusal :=
  match o with
  | .next a => .next (f a)
  | .fault r => .fault r
  | .refused r => .refused r

/-- A command word accepted by an idle block, executed and its response delivered (R8, R31). -/
def transact (w : CommandWord) (s : State) : Host.Outcome State Fault Refusal :=
  onNext (runWord w s) State.deliver

/-- What happens next. Reset has priority (R140); otherwise a response still at the channel is delivered before the block
accepts another word (R43); otherwise the host's next word runs; an idle block with nothing presented holds its state
(R135). -/
def advance (s : State) : Host.Outcome State Fault Refusal :=
  match s.pending, s.inFlight with
  | .reset :: _, _ => .next s.takeEvent.hardReset
  | _, some _ => .next s.deliver
  | .command w :: _, none => transact w s.takeEvent
  | [], none => .next s

/-- `s` with a command word first among what the host presents, and the block idle so that it accepts it. -/
def State.presentWord (s : State) (w : CommandWord) : State :=
  { s with inFlight := none, pending := .command w :: s.pending }

end Sys2Proof.Machine
end

