-- ==== Sys2Proof/Machine/Step.lean ====
section
/-! DEFINITION. The step function: one command with its response, one reset, or one idle wait (R8, R31). The block fetches
nothing (R12, R35): the word it runs is the one the host presents. -/

namespace Sys2Proof.Machine

/-- One step (R8): see `advance`. -/
def step (s : State) : Host.Outcome State Fault Refusal :=
  advance s

/-- `s` with the table's word at the head of what the host presents (R12), so that the next step runs it. `w` is numbered
from bit 0 of the command word; bits at or above `nbits`, or above bit 67, are none of the word's. -/
def State.withFetchWord (s : State) (nbits w : Nat) : State :=
  s.presentWord (BitVec.ofNat 68 (w % 2 ^ nbits))

end Sys2Proof.Machine
end

