-- ==== Sys2Proof/Machine/Shuffle.lean ====
section
/-! DEFINITION. RANDOMSHUFFLE, the host's sequence of NEXTINT_U commands (43_shuffle_sequence.md R110 to R115; decision
D19). The sequence belongs to the host and its elements are opaque to the block, so the functions are generic in their
type. -/

namespace Sys2Proof.Machine

/-- `swap(seq[i], seq[j])` (R114): the two positions are exchanged, every other position is unchanged. -/
def swapAt {α : Type} (xs : List α) (i j : Nat) : List α :=
  match xs[i]?, xs[j]? with
  | some x, some y => (xs.set i y).set j x
  | _, _ => xs

/-- The command for index `i`: NEXTINT_U with range `i + 1` (R110). -/
def shuffleCommand (i : Nat) : Instr :=
  .nextIntU (BitVec.ofNat 32 (i + 1))

/-- The commands for the indices from `i` down to 1. -/
def shuffleCommandsFrom : Nat → List Instr
  | 0 => []
  | i + 1 => shuffleCommand (i + 1) :: shuffleCommandsFrom i

/-- The commands a sequence of length `n` expands to (R49, R110): they depend on `n` alone (R113). -/
def shuffleCommands (n : Nat) : List Instr :=
  shuffleCommandsFrom (n - 1)

/-- The host's swap for index `i` from a response. The host must not use the result of an error response (R41). -/
def swapByResponse {α : Type} (xs : List α) (i : Nat) : Option Response → List α
  | some ⟨.ok, j⟩ => swapAt xs i j.toNat
  | _ => xs

/-- The host's loop from index `i` down to 1 (R110): issue the command, read the response delivered for it, swap. -/
def hostShuffleFrom {α : Type} : Nat → State → List α → Host.Outcome (State × List α) Fault Refusal
  | 0, s, xs => .next (s, xs)
  | i + 1, s, xs =>
    match transact (encode (shuffleCommand (i + 1))) s with
    | .next t => hostShuffleFrom i t (swapByResponse xs (i + 1) t.responses.getLast?)
    | .fault r => .fault r
    | .refused r => .refused r

/-- RANDOMSHUFFLE (R110) on a block that is idle. A sequence longer than `N_MAX` is outside the pseudo-instruction
(decision D20). -/
def hostShuffle {α : Type} (s : State) (xs : List α) : Option (Host.Outcome (State × List α) Fault Refusal) :=
  if xs.length ≤ Config.shuffleMax then some (hostShuffleFrom (xs.length - 1) s xs) else none

/-- R115 from index `i` down to 1, as a pure function of the register and the list. -/
def pureShuffleFrom {α : Type} : Nat → U64 → List α → U64 × List α
  | 0, x, xs => (x, xs)
  | i + 1, x, xs =>
    pureShuffleFrom i (transition x)
      (swapAt xs (i + 1) ((extract (transition x)).toNat % (i + 2)))

/-- `Shuffle(s, xs)` (R115). -/
def pureShuffle {α : Type} (x : U64) (xs : List α) : U64 × List α :=
  pureShuffleFrom (xs.length - 1) x xs

end Sys2Proof.Machine
end

