-- ==== Sys2Proof/Machine/Assembler.lean ====
section
/-! DEFINITION. The assembly notation of 30_encoding.md R48 and the pseudo-instructions of R49 (decision D27): from a line
of text to command words. -/

namespace Sys2Proof.Machine

/-! ## From an assembly line to commands (R48, R49) -/

/-- A literal's pattern in `w` bits: a negative number in two's complement. -/
def literalBits (w : Nat) : Literal → BitVec w
  | .dec v => BitVec.ofInt w v
  | .hex p => BitVec.ofNat w p

/-- The commands a well-formed line stands for. SEED32 sign-extends its operand (R49, decision D7). -/
def expandAsm : Asm → List Instr
  | .seed v => [.seed (literalBits 64 v)]
  | .seed32 v => [.seed ((literalBits 32 v).signExtend 64)]
  | .nextRaw => [.nextRaw]
  | .nextBool => [.nextBool]
  | .nextIntU range => [.nextIntU (literalBits 32 range)]
  | .nextIntS a b => [.nextIntS (literalBits 32 a) (literalBits 32 b)]
  | .nextFloat => [.nextFloat]
  | .nextFloatAB a b => [.nextFloatAB (literalBits 32 a) (literalBits 32 b)]
  | .randomShuffle _ n => shuffleCommands (literalBits 32 n).toNat

/-- The command words of a line, none where the line is ill formed. -/
def assemble (l : Asm) : Option (List CommandWord) :=
  if l.wellFormed then some ((expandAsm l).map encode) else none

/-! ## From text to an assembly line (R48) -/

/-- A character between tokens. -/
def isBlank (c : Char) : Bool := c == ' ' || c == '\t'

/-- Without the blanks at both ends. -/
def trimBlanks (cs : List Char) : List Char :=
  ((cs.dropWhile isBlank).reverse.dropWhile isBlank).reverse

/-- The parts between commas, one part for a text without a comma. -/
def splitCommas (cs : List Char) : List (List Char) :=
  cs.foldr (fun c parts =>
    if c == ',' then [] :: parts
    else match parts with
      | [] => [[c]]
      | p :: ps => (c :: p) :: ps) [[]]

/-- The value of a digit in base 10 or 16, capitals or not. -/
def digitValue (base : Nat) (c : Char) : Option Nat :=
  let v := if '0' ≤ c ∧ c ≤ '9' then some (c.toNat - '0'.toNat)
    else if 'a' ≤ c ∧ c ≤ 'f' then some (c.toNat - 'a'.toNat + 10)
    else if 'A' ≤ c ∧ c ≤ 'F' then some (c.toNat - 'A'.toNat + 10)
    else none
  v.filter fun d => decide (d < base)

/-- The number a run of digits after `acc` stands for. -/
def digitsFrom (base : Nat) : Nat → List Char → Option Nat
  | acc, [] => some acc
  | acc, c :: cs =>
    match digitValue base c with
    | some d => digitsFrom base (acc * base + d) cs
    | none => none

/-- A number of at least one digit. -/
def parseDigits (base : Nat) (cs : List Char) : Option Nat :=
  if cs.isEmpty then none else digitsFrom base 0 cs

/-- A literal: hexadecimal after `0x`, or decimal with an optional minus sign (R48). DESIGN CHOICE (log 16): any number of digits,
leading zeros among them, and a pattern of few digits is filled with zeros on the left. -/
def parseLiteral (cs : List Char) : Option Literal :=
  match cs with
  | '0' :: 'x' :: ds => (parseDigits 16 ds).map .hex
  | '-' :: ds => (parseDigits 10 ds).map fun v => .dec (-(v : Int))
  | ds => (parseDigits 10 ds).map fun v => .dec v

/-- A line whose mnemonic and operand texts are these. DESIGN CHOICE (log 16): R49 gives the name of RANDOMSHUFFLE's sequence no
form, and any text stands for it here, also the empty one; it reaches no word. -/
def parseTokens (mnemonic : List Char) (operands : List (List Char)) : Option Asm :=
  match operands with
  | [] =>
    if mnemonic == "NEXTRAW".toList then some .nextRaw
    else if mnemonic == "NEXTBOOL".toList then some .nextBool
    else if mnemonic == "NEXTFLOAT".toList then some .nextFloat
    else none
  | [x] =>
    if mnemonic == "SEED".toList then (parseLiteral x).map .seed
    else if mnemonic == "SEED32".toList then (parseLiteral x).map .seed32
    else if mnemonic == "NEXTINT_U".toList then (parseLiteral x).map .nextIntU
    else none
  | [x, y] =>
    if mnemonic == "RANDOMSHUFFLE".toList then (parseLiteral y).map (.randomShuffle (String.ofList x))
    else
      match parseLiteral x, parseLiteral y with
      | some a, some b =>
        if mnemonic == "NEXTINT_S".toList then some (.nextIntS a b)
        else if mnemonic == "NEXTFLOAT_AB".toList then some (.nextFloatAB a b)
        else none
      | _, _ => none
  | _ => none

/-- The text of a line without its comment, which runs from `;` to the end, and without surrounding blanks. -/
def stripComment (cs : List Char) : List Char :=
  trimBlanks (cs.takeWhile (· != ';'))

/-- A line without its label. R48's grammar has none, but program P5 of 95_test_vectors.md writes one; DESIGN CHOICE (log 16): a
first token that ends in a colon is a label, of whatever name, and stands for no word. -/
def stripLabel (cs : List Char) : List Char :=
  let token := cs.takeWhile (!isBlank ·)
  if token.getLast? == some ':' then trimBlanks (cs.drop token.length) else cs

/-- What a line says to the assembler: its text without comment and label. -/
def lineBody (text : List Char) : List Char :=
  stripLabel (stripComment text)

/-- The assembly line a text stands for: the mnemonic, then operands separated by commas. Where R48 leaves the text open, the
choices are those of log 16. -/
def parseLine (text : List Char) : Option Asm :=
  let cs := lineBody text
  let mnemonic := cs.takeWhile (!isBlank ·)
  let rest := trimBlanks (cs.drop mnemonic.length)
  parseTokens mnemonic (if rest.isEmpty then [] else (splitCommas rest).map trimBlanks)

/-- The command words of a line of text: none of them for a line with nothing but a comment or a label, no answer for a line R48 does not
allow. -/
def assembleLine (text : List Char) : Option (List CommandWord) :=
  if (lineBody text).isEmpty then some [] else (parseLine text).bind assemble

end Sys2Proof.Machine
end

