-- ==== Sys2Proof/Machine/Channel.lean ====
section
/-! DEFINITION. The two channels at the level of clock edges (30_encoding.md R43, 70_reset_and_hazards.md R140, R145, R150).
The step function works at the level of whole transactions, which the spec says is all a model needs (R43); this file gives the
signals, so that the handshake itself can be stated and shown to do what a transaction does. -/

namespace Sys2Proof.Machine

/-- The block's inputs at one rising edge of `clk` (R43). -/
structure Pins where
  rst : Bool
  cmdValid : Bool
  cmd : CommandWord
  rspReady : Bool
deriving DecidableEq, Repr

/-- `cmd_ready`: the block has no command in flight and is not in reset (R43, R140). -/
def cmdReady (s : State) (rst : Bool) : Bool :=
  !rst && s.inFlight.isNone

/-- `rsp_valid`: a response is being presented (R43), never in reset (R140). -/
def rspValid (s : State) (rst : Bool) : Bool :=
  !rst && (match s.inFlight with
    | some f => f.cyclesLeft == 0
    | none => false)

/-- `rsp`: the response word while `rsp_valid = 1`, and no value otherwise, since R140 leaves the bus unspecified then. -/
def rspBus (s : State) (rst : Bool) : Option ResponseWord :=
  if rspValid s rst then s.answer.map Response.word else none

/-- The latency of an accepted command starts to run (R43, R150): `rsp_valid` rises `LAT(op)` cycles after acceptance. The
response is already computed (log 20). -/
def State.startLatency (s : State) (op : Opcode) : State :=
  { s with inFlight := s.inFlight.map fun f => { f with cyclesLeft := Config.latency op - 1 } }

/-- One cycle of a command in flight passes. -/
def State.countDown (s : State) : State :=
  { s with inFlight := s.inFlight.map fun f => { f with cyclesLeft := f.cyclesLeft - 1 } }

/-- One rising edge of `clk` (R43, R140). `rst` overrides everything; an idle block accepts the word that is present on
this edge; a block whose response is ready holds it until the host accepts it, for ever if the host never does (R145, U13).

DESIGN CHOICE (log 20): R146 lets a command take several cycles and names no edge on which `seed` is written. Here the accepting
edge makes the command's whole effect, on `seed` and on the model's marks, and the cycles after it only delay `rsp_valid`. -/
def clockEdge (p : Pins) (s : State) : Host.Outcome State Fault Refusal :=
  if p.rst then .next s.hardReset
  else if cmdReady s p.rst then
    if p.cmdValid then onNext (runWord p.cmd s) (State.startLatency · (opField p.cmd)) else .next s
  else if rspValid s p.rst then
    if p.rspReady then .next s.deliver else .next s
  else .next s.countDown

/-- Successive edges. -/
def clockEdges : List Pins → State → Host.Outcome State Fault Refusal
  | [], s => .next s
  | p :: ps, s =>
    match clockEdge p s with
    | .next t => clockEdges ps t
    | .fault r => .fault r
    | .refused r => .refused r

end Sys2Proof.Machine
end

