-- ==== Sys2Proof/Machine/System.lean ====
section
/-! DEFINITION. Several blocks in one system, and several hosts on one block (10_state.md R17, 20_memory.md R32, 60_exceptions.md R133).
Instances share nothing. Hosts that share one instance are serialised by an arbiter outside the block, which may choose any
interleaving of their whole commands (decision D16, U10): the step relation `SharedStep` leaves its pick open and
records which host each response goes to. -/

namespace Sys2Proof.Machine

/-! ## Several blocks (R17) -/

/-- Instance `k` of a system takes a step, every other instance stays as it is (R17). The instances share nothing; that their
unspecified values after equally many resets agree is the model's choice (log 2). -/
def stepInstance (k : Nat) (system : List State) : Host.Outcome (List State) Fault Refusal :=
  match system[k]? with
  | none => .next system
  | some s => onNext (step s) fun t => system.set k t

/-! ## Several hosts on one block (R32) -/

/-- One block, the hosts that share it, and what has gone to which host. -/
structure SharedBlock where
  /-- The block. Its own `pending` is not used: what is presented comes from `ports`. -/
  block : State
  /-- For each host, the command words it still wants executed, in its own order. -/
  ports : List (List CommandWord)
  /-- Which host each response of the run was delivered to, oldest first. -/
  delivered : List (Nat × Response)
deriving DecidableEq, Repr

/-- The responses host `k` has been given, oldest first. -/
def SharedBlock.responsesTo (k : Nat) (sys : SharedBlock) : List Response :=
  (sys.delivered.filter fun d => d.1 == k).map Prod.snd

/-- The arbiter picks host `k`: the host's next word is accepted, executed and answered as one whole command, and the response
goes to that host (R31, R32). DESIGN CHOICE (log 13): no rule says that the arbiter returns a response to the host it picked, and
to no other. Nothing happens where there is no such host, where it has nothing to present, or where the block is not ready
(R43). -/
def SharedBlock.grant (k : Nat) (sys : SharedBlock) : Host.Outcome SharedBlock Fault Refusal :=
  match sys.ports[k]? with
  | some (w :: ws) =>
    if cmdReady sys.block false then
      onNext (runWord w sys.block) fun t =>
        { block := t.deliver
          ports := sys.ports.set k ws
          delivered := sys.delivered ++ t.answer.toList.map fun r => (k, r) }
    else .next sys
  | _ => .next sys

/-- The platform resets the shared block (R140): a new run (R151), with nothing delivered in it. What the hosts still want
executed is theirs (log 5). -/
def SharedBlock.reset (sys : SharedBlock) : SharedBlock :=
  { sys with block := sys.block.hardReset, delivered := [] }

/-- THE STEP RELATION of a block with several hosts (R32): the arbiter may pick any host, so every interleaving of whole
commands is admitted and none is torn. A reset may come between any two commands (log 17). -/
def SharedStep (a b : SharedBlock) : Prop :=
  (∃ k, a.grant k = .next b) ∨ b = a.reset

/-- The arbiter's picks, one after another. -/
def SharedBlock.grants : List Nat → SharedBlock → Host.Outcome SharedBlock Fault Refusal
  | [], sys => .next sys
  | k :: ks, sys =>
    match sys.grant k with
    | .next sys' => sys'.grants ks
    | .fault r => .fault r
    | .refused r => .refused r

/-- `Interleaving xs ys zs`: an arbiter may merge the commands `xs` of one host and `ys` of another into the one order `zs`
(R32). Each host's own order is kept and no command is torn. -/
inductive Interleaving {α : Type} : List α → List α → List α → Prop where
  | done : Interleaving [] [] []
  | left {xs ys zs : List α} (x : α) : Interleaving xs ys zs → Interleaving (x :: xs) ys (x :: zs)
  | right {xs ys zs : List α} (y : α) : Interleaving xs ys zs → Interleaving xs (y :: ys) (y :: zs)

end Sys2Proof.Machine
end

