-- ==== Sys2Proof/Safety.lean ====
section
/-! DEFINITION. The terms claims are stated in: the spec's own functions written out from its rules, beside the machine; the
rational value of a binary32 pattern; and what a run that meets the premises of a claim keeps (70_reset_and_hazards.md R151). -/

namespace Sys2Proof.Machine

/-! ## The stream (R60 to R63, R66), with the source's literals written out -/

/-- `T(x) = (x * M + A) mod 2^64` (R66), with the constants on the left as in `transition`. -/
def streamNext (x : U64) : U64 := 0xd737232eeccdf7ed + 0x9b60933458e17d7d * x

/-- `X(x) = trunc_32(x >> (29 - x[63:61]))` (R66). -/
def streamValue (x : U64) : U32 := (x >>> (29 - (x.extractLsb 63 61).toNat)).setWidth 32

/-- The state `n` draws after `x`: `T^n(x)` (R66). -/
def streamAfter (n : Nat) (x : U64) : U64 := streamNext^[n] x

/-! ## A command as a pure transition of the register (R8) -/

end Sys2Proof.Machine

namespace Sys2Proof

/-- The operand preconditions (R122), on the integers the operands stand for. -/
def Instr.accepted : Instr → Bool
  | .nextIntU range => decide (range.toNat ≠ 0)
  | .nextIntS a b => decide (a.toInt ≤ b.toInt ∧ ¬(a.toInt = -2147483648 ∧ b.toInt = 2147483647))
  | .seed _ => true
  | .nextRaw => true
  | .nextBool => true
  | .nextFloat => true
  | .nextFloatAB _ _ => true

/-- The command is SEED, the one command that makes no draw when it succeeds (R42). -/
def Instr.isSeed : Instr → Bool
  | .seed _ => true
  | .nextRaw => false
  | .nextBool => false
  | .nextIntU _ => false
  | .nextIntS _ _ => false
  | .nextFloat => false
  | .nextFloatAB _ _ => false

/-- How many draws a command makes (R42 "draws", R66, R120). -/
def Instr.draws (i : Instr) : Nat :=
  if i.accepted && !i.isSeed then 1 else 0

end Sys2Proof

namespace Sys2Proof.Machine

/-- The result a command computes from the raw draw (R64, R65, R75 to R77, R93, R94). -/
def resultOf (i : Instr) (raw : U32) : U32 :=
  match i with
  | .seed _ => 0
  | .nextRaw => raw
  | .nextBool => if raw.getLsbD 2 then 1 else 0
  | .nextIntU range => BitVec.ofNat 32 (raw.toNat % range.toNat)
  | .nextIntS a b => BitVec.ofInt 32 (a.toInt + (raw.toNat : Int) % (b.toInt - a.toInt + 1))
  | .nextFloat => if raw = 0 then 0 else u32ToF32 raw - 0x10000000
  | .nextFloatAB a b => f32Add (f32Mul (if raw = 0 then 0 else u32ToF32 raw - 0x10000000) (f32Sub b a)) a

/-- What a command leaves in `seed` (R64, R66, R120). -/
def seedAfter (i : Instr) (x : U64) : U64 :=
  match i with
  | .seed ab => ab
  | .nextRaw => streamNext x
  | .nextBool => streamNext x
  | .nextIntU range => if Instr.accepted (.nextIntU range) then streamNext x else x
  | .nextIntS a b => if Instr.accepted (.nextIntS a b) then streamNext x else x
  | .nextFloat => streamNext x
  | .nextFloatAB _ _ => streamNext x

/-- What a command is answered with (R41, R120). -/
def responseOf (i : Instr) (x : U64) : Response :=
  if i.accepted then ⟨.ok, resultOf i (streamValue (streamNext x))⟩ else ⟨.errOperand, 0⟩

/-- The register after commands presented in order. -/
def seedAfterAll (is : List Instr) (x : U64) : U64 :=
  is.foldl (fun y i => seedAfter i y) x

/-- The responses to commands presented in order. -/
def responsesOf : List Instr → U64 → List Response
  | [], _ => []
  | i :: is, x => responseOf i x :: responsesOf is (seedAfter i x)

/-- The host presents these commands, in order (R12). -/
def presented (is : List Instr) : List HostEvent :=
  is.map fun i => .command (encode i)

/-! ## Frames -/

/-- Everything a command leaves alone, whichever command it is: what the host will present, what it has been answered
before, and how often the block was reset. -/
def hostSideKept (s t : State) : Prop :=
  t.pending = s.pending ∧ t.responses = s.responses ∧ t.resetCount = s.resetCount

/-! ## The value of a binary32 pattern (R92) -/

/-- `val(w)` of a finite pattern (R92): the table's formula, as a rational number. -/
def f32Value (w : U32) : ℚ :=
  let sign : ℚ := if w.getLsbD 31 then -1 else 1
  let E := (w.extractLsb 30 23).toNat
  let F := (w.extractLsb 22 0).toNat
  if E = 0 then sign * F * (2 : ℚ) ^ (-149 : Int)
  else sign * (2 ^ 23 + F) * (2 : ℚ) ^ ((E : Int) - 150)

/-- `r` is the finite binary32 value nearest to `x`: no finite value is nearer, and one as near as `r` with another value
leaves `r` the even fraction (R91). -/
def isNearestF32 (r : U32) (x : ℚ) : Prop :=
  f32IsFinite r = true ∧
  (∀ w : U32, f32IsFinite w = true → |f32Value r - x| ≤ |f32Value w - x|) ∧
  (∀ w : U32, f32IsFinite w = true → |f32Value w - x| = |f32Value r - x| → f32Value w ≠ f32Value r →
    r.getLsbD 0 = false)

/-- The least magnitude that rounds to infinity: halfway from the greatest finite value to 2^128 (R91, overflow). -/
def f32OverflowBound : ℚ := 2 ^ 128 - 2 ^ 103

/-! ## Runs that meet the premises of a claim (R123, R141, R151) -/

/-- No reason has been recorded to leave the run out (R151). -/
def State.clean (s : State) : Prop := s.runFault = none

/-- Every response of the run so far: those delivered, then the one in flight. -/
def State.allResponses (s : State) : List Response := s.responses ++ s.answer.toList

/-- What every state of a run keeps: an error response carries no result (R41, R120); in a clean run no response is an
error (R123); and in a clean run nothing has been answered before the first SEED (R141). -/
def State.runInv (s : State) : Prop :=
  (∀ r ∈ s.allResponses, r.st ≠ .ok → r.res = 0) ∧
  (s.clean → ∀ r ∈ s.allResponses, r.st = .ok) ∧
  (s.clean → s.seedWritten = false → s.allResponses = [])

end Sys2Proof.Machine
end

