-- ==== Sys2Proof/Certificates/Slice0/Obligations.lean ====
section
/-! DEFINITION. The statements for the provers. Each docstring names the rule of spec/ it formalises, or says which choice of
the model it is about. `streamNext` and `streamValue` are the spec's T and X of R66, and a raw draw is
`streamValue (streamNext s.seed)`. -/

open Sys2Proof Sys2Proof.Machine

/-! ## Encoding (30_encoding.md) -/

/-- Words written out from the table of R42 and the examples of R48 decode to the commands they stand for; a word with a
reserved opcode does not. -/
def Obligations.HandWrittenWordsDecode : Prop :=
  decode 0x1ffffffffffffffff = .instr (.seed 0xffffffffffffffff) ∧
  decode 0x20000000000000000 = .instr .nextRaw ∧
  decode 0x3deadbeefcafef00d = .instr .nextBool ∧
  decode 0x4ffffffff0000000a = .instr (.nextIntU 10) ∧
  decode 0x500000003fffffffd = .instr (.nextIntS 0xfffffffd 3) ∧
  decode 0x6123456789abcdef0 = .instr .nextFloat ∧
  decode 0x7400000003f800000 = .instr (.nextFloatAB 0x3f800000 0x40000000) ∧
  decode 0x00000000400000000 = .rejected (.reservedOpcode 0) ∧
  decode 0x80000000000000000 = .rejected (.reservedOpcode 8)

/-- R42, R44, R48: decoding the word of a well-formed command gives the command back, with every operand at every value. -/
def Obligations.DecodeInvertsEncode : Prop :=
  ∀ i : Instr, i.wellFormed = true → decode (encode i) = .instr i

/-- R50: which command a word names, and with which operands, for every word. -/
def Obligations.DecodeByOpcode : Prop :=
  ∀ w : CommandWord,
    (w.extractLsb 67 64 = 1 → decode w = .instr (.seed (w.extractLsb 63 0))) ∧
    (w.extractLsb 67 64 = 2 → decode w = .instr .nextRaw) ∧
    (w.extractLsb 67 64 = 3 → decode w = .instr .nextBool) ∧
    (w.extractLsb 67 64 = 4 → decode w = .instr (.nextIntU (w.extractLsb 31 0))) ∧
    (w.extractLsb 67 64 = 5 → decode w = .instr (.nextIntS (w.extractLsb 31 0) (w.extractLsb 63 32))) ∧
    (w.extractLsb 67 64 = 6 → decode w = .instr .nextFloat) ∧
    (w.extractLsb 67 64 = 7 → decode w = .instr (.nextFloatAB (w.extractLsb 31 0) (w.extractLsb 63 32))) ∧
    (w.extractLsb 67 64 = 0 ∨ 8 ≤ (w.extractLsb 67 64).toNat →
      decode w = .rejected (.reservedOpcode (w.extractLsb 67 64)))

/-- R45, R46: two words are the same command, or the same illegal word, exactly when their opcodes agree and they agree on
the operand bits that opcode uses. -/
def Obligations.SameCommandIffUsedBitsAgree : Prop :=
  ∀ v w : CommandWord,
    decode v = decode w ↔
      v.extractLsb 67 64 = w.extractLsb 67 64 ∧
      v.extractLsb 63 0 &&& usedOperandBits (v.extractLsb 67 64) =
        w.extractLsb 63 0 &&& usedOperandBits (w.extractLsb 67 64)

/-- R45, R48: encoding what a word decodes to gives that word with its ignored operand bits zero. -/
def Obligations.EncodeClearsIgnoredBits : Prop :=
  ∀ (w : CommandWord) (i : Instr), decode w = .instr i →
    (encode i).extractLsb 67 64 = w.extractLsb 67 64 ∧
    (encode i).extractLsb 63 0 = w.extractLsb 63 0 &&& usedOperandBits (w.extractLsb 67 64)

/-- R48's table: the number each command's word is. -/
def Obligations.EncodedWordLayout : Prop :=
  (∀ ab, (encode (.seed ab)).toNat = 1 * 2 ^ 64 + ab.toNat) ∧
  (encode .nextRaw).toNat = 2 * 2 ^ 64 ∧
  (encode .nextBool).toNat = 3 * 2 ^ 64 ∧
  (∀ range, (encode (.nextIntU range)).toNat = 4 * 2 ^ 64 + range.toNat) ∧
  (∀ a b, (encode (.nextIntS a b)).toNat = 5 * 2 ^ 64 + b.toNat * 2 ^ 32 + a.toNat) ∧
  (encode .nextFloat).toNat = 6 * 2 ^ 64 ∧
  (∀ a b, (encode (.nextFloatAB a b)).toNat = 7 * 2 ^ 64 + b.toNat * 2 ^ 32 + a.toNat)

/-- R41: the fields of a response word, and that status 3 is never produced. -/
def Obligations.ResponseWordLayout : Prop :=
  ∀ r : Response,
    r.word.extractLsb 31 0 = r.res ∧
    (r.st = .ok → r.word.extractLsb 33 32 = 0) ∧
    (r.st = .errIllegalCmd → r.word.extractLsb 33 32 = 1) ∧
    (r.st = .errOperand → r.word.extractLsb 33 32 = 2) ∧
    r.word.extractLsb 33 32 ≠ 3

/-- R26, decision D23: on a byte-wide transport byte `k` carries bits `8k+7 : 8k`, nine bytes for a command word and five for
a response word, and the decoder reads a command back whatever bytes follow. -/
def Obligations.ByteTransportLayout : Prop :=
  (∀ w : CommandWord, (commandBytes w).length = 9 ∧
    (∀ k < 9, (commandBytes w)[k]? = some (w.extractLsb' (8 * k) 8)) ∧
    ∀ rest, decodeBytes (commandBytes w ++ rest) = decode w) ∧
  (∀ r : ResponseWord, (responseBytes r).length = 5 ∧
    ∀ k < 5, (responseBytes r)[k]? = some (r.extractLsb' (8 * k) 8))

/-- R49: SEED32 is SEED of the sign-extended operand, and RANDOMSHUFFLE expands to the `max(n-1, 0)` words
`NEXTINT_U i+1` for `i` from `n-1` down to 1. -/
def Obligations.PseudoInstructionsExpand : Prop :=
  (∀ v : Int, -2147483648 ≤ v → v < 2147483648 →
    assemble (.seed32 (.dec v)) = some [encode (.seed (BitVec.ofInt 64 v))]) ∧
  (∀ (seq : String) (n : Nat), n ≤ 4294967295 →
    ∃ ws, assemble (.randomShuffle seq (.dec n)) = some ws ∧ ws.length = n - 1 ∧
      ∀ k < n - 1, ws[k]? = some (encode (.nextIntU (BitVec.ofNat 32 (n - k)))))

/-! ## The engine (40_engine.md) -/

/-- R60: the transition is `(seed * M + A) mod 2^64`. -/
def Obligations.TransitionIsAffine : Prop :=
  ∀ x : U64, (transition x).toNat = (x.toNat * 0x9b60933458e17d7d + 0xd737232eeccdf7ed) % 2 ^ 64

/-- R61: the shift amount comes from the top three bits of the state AFTER the transition, and lies between 22 and 29. -/
def Obligations.ShiftAmountFromTopBits : Prop :=
  (∀ x : U64, shiftAmount x + (x.extractLsb 63 61).toNat = 29 ∧ 22 ≤ shiftAmount x ∧ shiftAmount x ≤ 29) ∧
  (∀ s : State, s.drawValue = (transition s.seed >>> shiftAmount (transition s.seed)).setWidth 32)

/-- R62: the raw draw is the updated state shifted right by `s = 29 - t` and truncated, so its bit `i` is bit `s + i` of the
state. -/
def Obligations.ExtractorWindow : Prop :=
  ∀ x : U64, extract x = (x >>> (29 - (x.extractLsb 63 61).toNat)).setWidth 32 ∧
    ∀ i < 32, (extract x).getLsbD i = x.getLsbD (29 - (x.extractLsb 63 61).toNat + i)

/-- R62: bits `seed[21:0]` never reach an output directly. -/
def Obligations.LowBitsNeverReachADraw : Prop :=
  ∀ x y : U64, x >>> 22 = y >>> 22 → extract x = extract y

/-- R67, R65: the transition is a bijection with the inverse R67 gives, so every 32-bit value is some state's draw. -/
def Obligations.TransitionIsBijective : Prop :=
  (∀ x : U64, untransition (transition x) = x ∧ transition (untransition x) = x) ∧
  (∀ r : U32, ∃ x : U64, extract (transition x) = r)

/-! ## What each command does, and what it leaves alone

The statements hold for every state. Of a state in which a command is already in flight, where R43 lets none start, they say what
`exec` does by the model's choice of log 8. -/

/-- R64: SEED keeps the operand's 64-bit pattern, makes no draw and answers OK with 0; a signed `v` is cast to
`v mod 2^64`. -/
def Obligations.SeedInstallsOperand : Prop :=
  (∀ (ab : U64) (s : State), ∃ t, exec (.seed ab) s = .next t ∧
    (∀ w : CommandWord, w.extractLsb 67 64 = 1 → w.extractLsb 63 0 = ab → runWord w s = .next t) ∧
    t.seed = ab ∧ t.answer = some ⟨.ok, 0⟩ ∧ hostSideKept s t) ∧
  (∀ (v : Int) (s : State), ∃ t, exec (.seed (BitVec.ofInt 64 v)) s = .next t ∧ (t.seed.toNat : Int) = v % 2 ^ 64)

/-- R65: NEXTRAW makes one draw and answers it, whatever the operand bits. -/
def Obligations.NextRawAnswersDraw : Prop :=
  ∀ s : State, ∃ t, exec .nextRaw s = .next t ∧
    (∀ w : CommandWord, w.extractLsb 67 64 = 2 → runWord w s = .next t) ∧
    t.seed = streamNext s.seed ∧ t.answer = some ⟨.ok, streamValue (streamNext s.seed)⟩ ∧ hostSideKept s t

/-- R75: NEXTBOOL makes one draw and answers its bit 2 as 0 or 1. -/
def Obligations.NextBoolAnswersBitTwo : Prop :=
  ∀ s : State, ∃ t, exec .nextBool s = .next t ∧
    (∀ w : CommandWord, w.extractLsb 67 64 = 3 → runWord w s = .next t) ∧
    t.seed = streamNext s.seed ∧
    t.answer = some ⟨.ok, if (streamValue (streamNext s.seed)).toNat / 4 % 2 = 1 then 1 else 0⟩ ∧
    hostSideKept s t

/-- R76: NEXTINT_U answers the unsigned remainder of one draw, below `range`; a zero range answers ERR_OPERAND with no draw
and `seed` unchanged. -/
def Obligations.NextIntUAnswersRemainder : Prop :=
  ∀ (range : U32) (s : State), ∃ t, exec (.nextIntU range) s = .next t ∧
    (∀ w : CommandWord, w.extractLsb 67 64 = 4 → w.extractLsb 31 0 = range → runWord w s = .next t) ∧
    hostSideKept s t ∧
    (range ≠ 0 → t.seed = streamNext s.seed ∧ ∃ r : U32, t.answer = some ⟨.ok, r⟩ ∧
      r.toNat = (streamValue (streamNext s.seed)).toNat % range.toNat ∧ r.toNat < range.toNat) ∧
    (range = 0 → t.seed = s.seed ∧ t.answer = some ⟨.errOperand, 0⟩)

/-- R77: NEXTINT_S answers `a + raw mod (b - a + 1)` computed on integers, which lies in [a, b]; `b < a` and the full 32-bit range
answer ERR_OPERAND with no draw and `seed` unchanged. -/
def Obligations.NextIntSAnswersInRange : Prop :=
  ∀ (a b : U32) (s : State), ∃ t, exec (.nextIntS a b) s = .next t ∧
    (∀ w : CommandWord, w.extractLsb 67 64 = 5 → w.extractLsb 31 0 = a → w.extractLsb 63 32 = b →
      runWord w s = .next t) ∧
    hostSideKept s t ∧
    (a.toInt ≤ b.toInt → ¬(a.toInt = -2147483648 ∧ b.toInt = 2147483647) →
      t.seed = streamNext s.seed ∧ ∃ r : U32, t.answer = some ⟨.ok, r⟩ ∧
        r.toInt = a.toInt + ((streamValue (streamNext s.seed)).toNat : Int) % (b.toInt - a.toInt + 1) ∧
        a.toInt ≤ r.toInt ∧ r.toInt ≤ b.toInt) ∧
    (b.toInt < a.toInt ∨ (a.toInt = -2147483648 ∧ b.toInt = 2147483647) →
      t.seed = s.seed ∧ t.answer = some ⟨.errOperand, 0⟩)

/-- R93: NEXTFLOAT answers `Unit` of one draw: zero for a zero draw, otherwise the converted draw's pattern minus
0x10000000. -/
def Obligations.NextFloatAnswersUnit : Prop :=
  ∀ s : State, ∃ t, exec .nextFloat s = .next t ∧
    (∀ w : CommandWord, w.extractLsb 67 64 = 6 → runWord w s = .next t) ∧
    t.seed = streamNext s.seed ∧ hostSideKept s t ∧
    (streamValue (streamNext s.seed) = 0 → t.answer = some ⟨.ok, 0⟩) ∧
    (streamValue (streamNext s.seed) ≠ 0 →
      t.answer = some ⟨.ok, u32ToF32 (streamValue (streamNext s.seed)) - 0x10000000⟩)

/-- R94: NEXTFLOAT_AB answers `f32_add(f32_mul(Unit(raw), f32_sub(b, a)), a)` of one draw, for every pair of patterns. -/
def Obligations.NextFloatABAnswersAffineMap : Prop :=
  ∀ (a b : U32) (s : State), ∃ t, exec (.nextFloatAB a b) s = .next t ∧
    (∀ w : CommandWord, w.extractLsb 67 64 = 7 → w.extractLsb 31 0 = a → w.extractLsb 63 32 = b →
      runWord w s = .next t) ∧
    t.seed = streamNext s.seed ∧ hostSideKept s t ∧
    t.answer = some ⟨.ok,
      f32Add (f32Mul (unitF32 (streamValue (streamNext s.seed))) (f32Sub b a)) a⟩

/-- R46: a word with a reserved opcode is answered with ERR_ILLEGAL_CMD and result 0, changes `seed` not at all and makes
no draw, whatever its other bits. -/
def Obligations.ReservedOpcodeAnswersIllegal : Prop :=
  ∀ (w : CommandWord) (s : State), w.extractLsb 67 64 = 0 ∨ 8 ≤ (w.extractLsb 67 64).toNat →
    ∃ t, runWord w s = .next t ∧ t.seed = s.seed ∧ t.answer = some ⟨.errIllegalCmd, 0⟩ ∧
      t.answer.map Response.word = some 0x100000000 ∧ hostSideKept s t

/-- R122: the causes of ERR_OPERAND, all three and no others, checked before the draw; every other command answers OK. -/
def Obligations.OperandErrorCauses : Prop :=
  ∀ (i : Instr) (s : State), ∃ t r, exec i s = .next t ∧ t.answer = some r ∧
    (r.st = .errOperand ↔
      i = .nextIntU 0 ∨ ∃ a b : U32, i = .nextIntS a b ∧
        (b.toInt < a.toInt ∨ (a.toInt = -2147483648 ∧ b.toInt = 2147483647))) ∧
    (r.st ≠ .errOperand → r.st = .ok) ∧
    (r.st = .errOperand → r.res = 0 ∧ t.seed = s.seed)

/-- R80: a command that ends in ERR_OPERAND leaves `seed` as it found it, and what follows is as if it had never been
sent. The next command runs on the block as the delivery of the error response leaves it, since R43 lets none start
before. -/
def Obligations.FailedCommandLeavesNoTrace : Prop :=
  ∀ (i : Instr) (s : State), i.accepted = false →
    ∃ t, exec i s = .next t ∧ t.seed = s.seed ∧ t.answer = some ⟨.errOperand, 0⟩ ∧
      ∀ j : Instr, ∃ u u', exec j s = .next u ∧ exec j t.deliver = .next u' ∧ u'.seed = u.seed ∧ u'.answer = u.answer

/-- R16, R18: two blocks that hold the same `seed` give the same response and the same new `seed` to the same command;
nothing else of the state matters. -/
def Obligations.AnswerDependsOnSeedAlone : Prop :=
  ∀ (i : Instr) (s s' : State), s.seed = s'.seed →
    ∃ t t', exec i s = .next t ∧ exec i s' = .next t' ∧ t.seed = t'.seed ∧ t.answer = t'.answer

/-- THE MODEL'S CHOICE (logs 3 and 4, after R13, R123 and U3): what each command does to the model's own marks. -/
def Obligations.MarksOfEveryCommand : Prop :=
  ∀ (i : Instr) (s : State), ∃ t, exec i s = .next t ∧
    t.seedWritten = (s.seedWritten || i.isSeed) ∧
    t.runFault =
      if i.accepted = false then s.runFault.or (some .operandError)
      else if i.draws = 1 ∧ s.seedWritten = false then s.runFault.or (some .drawBeforeSeed)
      else s.runFault

/-! ## Steps and runs

A step accepts, executes and answers a command and delivers its response (R8). That the response IS delivered in the step is the
model's choice of log 6, which presumes duty 3 of R145; every statement of this section that counts responses rests on it. -/

/-- R8, R31, R50: when the word at the head of what the host presents decodes to `i` and the block is idle, the step is
`exec i`, with the word taken and the response delivered. That the delivery is part of the same step is the MODEL'S CHOICE of
log 6, which presumes duty 3 of R145, a host that accepts its responses. -/
def Obligations.StepRunsTheDecodedCommand : Prop :=
  ∀ (w : CommandWord) (es : List HostEvent) (i : Instr) (s t : State),
    s.inFlight = none → s.pending = .command w :: es → decode w = .instr i → exec i { s with pending := es } = .next t →
    step s = .next { t with inFlight := none, responses := t.responses ++ t.answer.toList }

/-- R43, R46, R120: an idle block takes every presented word, answers it with exactly one response and is idle again; an
illegal word leaves `seed` as it was. That the response is delivered and the block idle again within the step is the MODEL'S CHOICE
of log 6: R150 grants it only to a host that keeps duty 3 of R145. -/
def Obligations.EveryWordGetsOneResponse : Prop :=
  ∀ (w : CommandWord) (es : List HostEvent) (s : State), s.inFlight = none → s.pending = .command w :: es →
    ∃ t r, step s = .next t ∧ t.responses = s.responses ++ [r] ∧ t.inFlight = none ∧ t.pending = es ∧
      t.resetCount = s.resetCount ∧
      ((w.extractLsb 67 64 = 0 ∨ 8 ≤ (w.extractLsb 67 64).toNat) → t.seed = s.seed ∧ r = ⟨.errIllegalCmd, 0⟩)

/-- THE MODEL'S CHOICE (log 6): a step with a response in flight delivers it, once, whatever cycles it still had to wait and
whether or not a host at the channel would be ready. R43 gives the rest: while it is in flight the block accepts no word, and
one response is produced. -/
def Obligations.WaitingResponseIsDelivered : Prop :=
  ∀ (s : State) (f : InFlight), s.inFlight = some f → (∀ es, s.pending ≠ .reset :: es) →
    ∃ t, step s = .next t ∧ t.responses = s.responses ++ [f.rsp] ∧ t.inFlight = none ∧ t.pending = s.pending ∧
      t.seed = s.seed

/-- R135: an idle block with nothing presented holds its state. -/
def Obligations.IdleBlockHoldsSeed : Prop :=
  ∀ s : State, s.inFlight = none → s.pending = [] → step s = .next s

/-- R140: after a reset no command is in flight, the block is ready and presents no response. That the run's record
starts anew is the model's reading of R151 (log 5). -/
def Obligations.ResetLeavesBlockIdle : Prop :=
  ∀ (s : State) (es : List HostEvent), s.pending = .reset :: es →
    ∃ t, step s = .next t ∧ t.inFlight = none ∧ cmdReady t false = true ∧ rspValid t false = false ∧ t.pending = es ∧
      t.responses = [] ∧ t.runFault = none ∧ t.seedWritten = false

/-- R140, R151: what reset leaves of the interface in `State.reset`. The value of `seed` there is the model's choice (log 1) and
is not stated. -/
def Obligations.ResetStateIsIdle : Prop :=
  State.reset.inFlight = none ∧ cmdReady State.reset false = true ∧ rspValid State.reset false = false ∧
  State.reset.responses = []

/-- R120, R126, R127: no state and no word stops the block: every step answers a next state. -/
def Obligations.BlockNeverStops : Prop :=
  ∀ s : State, ∃ t, step s = .next t

/-- R8, R31: a list of commands presented to an idle block runs as the pure transitions `(seed, command) → (seed', response)`
of R8 one after another, in order. -/
def Obligations.RunFollowsPureTransitions : Prop :=
  ∀ (is : List Instr) (s : State), s.inFlight = none → s.pending = presented is →
    ∃ t : State, Host.Core.run Sys2Proof.core is.length s = .next t ∧
      t.seed = seedAfterAll is s.seed ∧ t.responses = s.responses ++ responsesOf is s.seed ∧
      t.inFlight = none ∧ t.pending = [] ∧ t.resetCount = s.resetCount

/-- R66: after SEED v, the n-th successful draw returns `X(T^n(v))`, whichever commands made the draws and however many failed
between them, and `n` draws leave `seed = T^n(v)`. -/
def Obligations.StreamProperty : Prop :=
  ∀ (v : U64) (is : List Instr) (s : State), s.inFlight = none → s.pending = presented (.seed v :: is) →
    (∀ i ∈ is, i.isSeed = false) →
    ∃ (t : State) (rs : List Response), Host.Core.run Sys2Proof.core (is.length + 1) s = .next t ∧
      t.seed = streamAfter (is.map Instr.draws).sum v ∧
      t.responses = s.responses ++ ⟨.ok, 0⟩ :: rs ∧ rs.length = is.length ∧
      ∀ (k : Nat) (i : Instr), is[k]? = some i → i.accepted = true →
        rs[k]? = some ⟨.ok, resultOf i (streamValue (streamAfter (((is.take k).map Instr.draws).sum + 1) v))⟩

/-- R21: SEED may be issued at any time and restarts the sequence: what follows it does not depend on the state before. -/
def Obligations.SeedRestartsTheStream : Prop :=
  ∀ (v : U64) (is : List Instr) (s s' : State), s.inFlight = none → s'.inFlight = none →
    s.pending = presented (.seed v :: is) → s'.pending = presented (.seed v :: is) →
    ∃ (t t' : State) (rs : List Response),
      Host.Core.run Sys2Proof.core (is.length + 1) s = .next t ∧
      Host.Core.run Sys2Proof.core (is.length + 1) s' = .next t' ∧
      t.seed = t'.seed ∧ t.responses = s.responses ++ rs ∧ t'.responses = s'.responses ++ rs

/-- R120, R123, R141, with the model's marks of logs 3 and 4: what every step keeps of a run. No error response carries a result; in a
clean run no response is an error; in a clean run nothing is answered before the first SEED. -/
def Obligations.RunInvariantKept : Prop :=
  ∀ s t : State, s.runInv → step s = .next t → t.runInv

/-- The invariant holds right after reset. -/
def Obligations.RunInvariantAtReset : Prop :=
  State.reset.runInv

/-! ## The integer samplers' bias (R79) -/

/-- R79: over all 2^32 raw draws, the result `k` of NEXTINT_U with range `m` comes from `floor(2^32 / m) + 1` draws when
`k < 2^32 mod m`, and from `floor(2^32 / m)` otherwise. -/
def Obligations.ModuloBiasCount : Prop :=
  ∀ m k : U32, k.toNat < m.toNat →
    (Finset.univ.filter fun raw : U32 => intUResult raw m = k).card =
      2 ^ 32 / m.toNat + if k.toNat < 2 ^ 32 % m.toNat then 1 else 0

/-! ## Binary32 arithmetic (42_float_samplers.md) -/

/-- R90: the conversion of a non-zero unsigned integer is the nearest binary32 value, ties to even, positive and normal
with exponent field 127 to 159. -/
def Obligations.ConversionIsNearest : Prop :=
  ∀ v : U32, v ≠ 0 →
    isNearestF32 (u32ToF32 v) v.toNat ∧ f32Sign (u32ToF32 v) = false ∧
      127 ≤ f32Exponent (u32ToF32 v) ∧ f32Exponent (u32ToF32 v) ≤ 159

/-- R93, R96: for a non-zero draw, `Unit` is exactly the converted value divided by 2^32, with exponent field 95 to 127, and is the
binary32 value nearest to `raw / 2^32`. -/
def Obligations.UnitScalesTheConversion : Prop :=
  ∀ raw : U32, raw ≠ 0 →
    f32Value (unitF32 raw) = f32Value (u32ToF32 raw) / 2 ^ 32 ∧
      95 ≤ f32Exponent (unitF32 raw) ∧ f32Exponent (unitF32 raw) ≤ 127 ∧
      isNearestF32 (unitF32 raw) ((raw.toNat : ℚ) / 2 ^ 32)

/-- R93: the range of `Unit`: exactly 0 for a zero draw alone, otherwise from 2^-32 to 1, and exactly 1 for the draws from
0xFFFFFF80 on. -/
def Obligations.UnitLiesInClosedInterval : Prop :=
  ∀ raw : U32, (unitF32 raw = 0 ↔ raw = 0) ∧ f32IsFinite (unitF32 raw) = true ∧
    0 ≤ f32Value (unitF32 raw) ∧ f32Value (unitF32 raw) ≤ 1 ∧
    (raw ≠ 0 → 1 / 2 ^ 32 ≤ f32Value (unitF32 raw)) ∧
    (unitF32 raw = 0x3F800000 ↔ 0xFFFFFF80 ≤ raw.toNat)

/-- R93: a greater draw never gives a smaller `Unit`. -/
def Obligations.UnitIsMonotone : Prop :=
  ∀ raw raw' : U32, raw.toNat ≤ raw'.toNat → f32Value (unitF32 raw) ≤ f32Value (unitF32 raw')

/-- R91: the sum of two finite values is rounded once to nearest, ties to even; at and beyond the overflow bound it is an
infinity; an exact zero is -0 only for two negative zeros. -/
def Obligations.SumIsCorrectlyRounded : Prop :=
  ∀ x y : U32, f32IsFinite x = true → f32IsFinite y = true →
    (|f32Value x + f32Value y| < f32OverflowBound → isNearestF32 (f32Add x y) (f32Value x + f32Value y)) ∧
    (f32OverflowBound ≤ f32Value x + f32Value y → f32Add x y = 0x7F800000) ∧
    (f32Value x + f32Value y ≤ -f32OverflowBound → f32Add x y = 0xFF800000) ∧
    (f32Value x + f32Value y = 0 → f32Add x y = if f32Sign x && f32Sign y then 0x80000000 else 0)

/-- R91: the difference of two finite values is rounded once to nearest, ties to even, with the same overflow; an exact zero
is -0 only for -0 minus +0. -/
def Obligations.DifferenceIsCorrectlyRounded : Prop :=
  ∀ x y : U32, f32IsFinite x = true → f32IsFinite y = true →
    (|f32Value x - f32Value y| < f32OverflowBound → isNearestF32 (f32Sub x y) (f32Value x - f32Value y)) ∧
    (f32OverflowBound ≤ f32Value x - f32Value y → f32Sub x y = 0x7F800000) ∧
    (f32Value x - f32Value y ≤ -f32OverflowBound → f32Sub x y = 0xFF800000) ∧
    (f32Value x - f32Value y = 0 → f32Sub x y = if f32Sign x && !f32Sign y then 0x80000000 else 0)

/-- R91: the product of two finite values is rounded once to nearest, ties to even; at and beyond the overflow bound it is an
infinity; it always has the sign `sign(x) xor sign(y)`, also when it is zero. -/
def Obligations.ProductIsCorrectlyRounded : Prop :=
  ∀ x y : U32, f32IsFinite x = true → f32IsFinite y = true →
    f32Sign (f32Mul x y) = (f32Sign x != f32Sign y) ∧
    (|f32Value x * f32Value y| < f32OverflowBound → isNearestF32 (f32Mul x y) (f32Value x * f32Value y)) ∧
    (f32OverflowBound ≤ |f32Value x * f32Value y| → f32IsInf (f32Mul x y) = true)

/-- R91: NaN and infinite operands of the three operations, an infinity on either side. -/
def Obligations.SpecialOperands : Prop :=
  ∀ x y : U32,
    ((f32IsNaN x || f32IsNaN y) = true →
      f32Add x y = 0x7FC00000 ∧ f32Sub x y = 0x7FC00000 ∧ f32Mul x y = 0x7FC00000) ∧
    (f32IsInf x = true → f32IsInf y = true →
      f32Add x y = (if f32Sign x = f32Sign y then x else 0x7FC00000) ∧
      f32Sub x y = (if f32Sign x = f32Sign y then 0x7FC00000 else x)) ∧
    (f32IsInf x = true → f32IsFinite y = true →
      f32Add x y = x ∧ f32Add y x = x ∧ f32Sub x y = x ∧ f32Sub y x = x ^^^ 0x80000000) ∧
    (f32IsInf x = true → f32IsNaN y = false →
      f32Mul x y = f32Mul y x ∧
      f32Mul x y =
        if f32IsZero y then 0x7FC00000 else if f32Sign x = f32Sign y then 0x7F800000 else 0xFF800000)

/-- R94: three corner cases of NEXTFLOAT_AB's result: a NaN operand; equal finite bounds; a zero draw with a finite
difference. -/
def Obligations.FloatABCornerCases : Prop :=
  ∀ raw a b : U32,
    ((f32IsNaN a || f32IsNaN b) = true → floatABResult raw a b = 0x7FC00000) ∧
    (f32IsFinite a = true → floatABResult raw a a = if a = 0x80000000 then 0 else a) ∧
    (f32IsFinite a = true → f32IsFinite b = true → f32IsFinite (f32Sub b a) = true →
      floatABResult 0 a b =
        if a = 0x80000000 then (if f32Value b < f32Value a then 0x80000000 else 0) else a)

/-- R97, first case: for finite bounds `a ≤ b` with a finite difference, the result is never below `a`; it may be the positive
infinity. -/
def Obligations.FloatABLowerBound : Prop :=
  ∀ raw a b : U32, f32IsFinite a = true → f32IsFinite b = true → f32Value a ≤ f32Value b →
    f32IsFinite (f32Sub b a) = true →
    floatABResult raw a b = 0x7F800000 ∨
      (f32IsFinite (floatABResult raw a b) = true ∧ f32Value a ≤ f32Value (floatABResult raw a b))

/-- R97: the upper bound can fail by rounding, even for finite bounds with a finite difference. -/
def Obligations.FloatABUpperBoundCanFail : Prop :=
  ∃ raw a b : U32, f32IsFinite a = true ∧ f32IsFinite b = true ∧ f32Value a < f32Value b ∧
    f32IsFinite (f32Sub b a) = true ∧ f32IsFinite (floatABResult raw a b) = true ∧
    f32Value b < f32Value (floatABResult raw a b)

/-! ## The host's shuffle (43_shuffle_sequence.md)

The host accepts every response it is given (duty 3 of R145, log 6). -/

/-- R114: `swap` exchanges two positions and leaves every other as it is. -/
def Obligations.SwapExchangesTwoPositions : Prop :=
  ∀ (α : Type) (xs : List α) (i j : Nat), i < xs.length → j < xs.length →
    (swapAt xs i j).length = xs.length ∧
    (swapAt xs i j)[i]? = xs[j]? ∧ (swapAt xs i j)[j]? = xs[i]? ∧
    ∀ k : Nat, k ≠ i → k ≠ j → (swapAt xs i j)[k]? = xs[k]?

/-- R110, R111: the shuffle of a sequence gives a permutation of it, makes `max(n-1, 0)` draws, each answered OK, and leaves a
sequence of length 0 or 1 as it is. -/
def Obligations.ShuffleIsPermutation : Prop :=
  ∀ (α : Type) (s : State) (xs : List α), s.inFlight = none → xs.length ≤ 2 ^ 32 - 1 →
    ∃ (t : State) (ys : List α) (rs : List Response), hostShuffle s xs = some (.next (t, ys)) ∧ ys.Perm xs ∧
      t.seed = streamAfter (xs.length - 1) s.seed ∧
      t.responses = s.responses ++ rs ∧ rs.length = xs.length - 1 ∧ (∀ r ∈ rs, r.st = .ok) ∧
      (xs.length ≤ 1 → ys = xs ∧ t = s)

/-- R115: the host's loop of commands and swaps computes the pure function `Shuffle(seed, list)`. -/
def Obligations.ShuffleMatchesPureFunction : Prop :=
  ∀ (α : Type) (s : State) (xs : List α), s.inFlight = none → xs.length ≤ 2 ^ 32 - 1 →
    ∃ (t : State) (ys : List α), hostShuffle s xs = some (.next (t, ys)) ∧ (t.seed, ys) = pureShuffle s.seed xs

/-- R111, R113: the permutation depends on `seed` and `n` alone: shuffling relabelled elements relabels the result and
leaves the block in the same state. -/
def Obligations.ShuffleIgnoresElements : Prop :=
  ∀ (α β : Type) (f : α → β) (s : State) (xs : List α), s.inFlight = none → xs.length ≤ 2 ^ 32 - 1 →
    ∃ (t : State) (ys : List α), hostShuffle s xs = some (.next (t, ys)) ∧
      hostShuffle s (xs.map f) = some (.next (t, ys.map f))

/-! ## The channels and the system -/

/-- R43, R150: an idle block that accepts a word raises `rsp_valid` after `LAT(op)` cycles and not before, holds `rsp` and
`rsp_valid` as long as the host is not ready, and once the response is delivered has done exactly what one transaction step
does. The word on `rsp` is that of the response delivered. Model's choices in it: one latency for each opcode (log 7), `rsp`
without a value while `rsp_valid = 0` (log 9), and a step that delivers its response (log 6). -/
def Obligations.EdgesDoWhatAStepDoes : Prop :=
  ∀ (s : State) (a d : Pins) (waits holds : List Pins),
    s.inFlight = none → a.rst = false → a.cmdValid = true →
    waits.length = Config.latency (opField a.cmd) - 1 → (∀ p ∈ waits, p.rst = false) →
    (∀ p ∈ holds, p.rst = false ∧ p.rspReady = false) → d.rst = false → d.rspReady = true →
    ∃ (t m : State) (r : Response),
      step (s.presentWord a.cmd) = .next t ∧
      clockEdges (a :: (waits ++ (holds ++ [d]))) s = .next t ∧
      t.responses = s.responses ++ [r] ∧
      (∀ k ≤ holds.length, clockEdges (a :: (waits ++ holds.take k)) s = .next m) ∧
      cmdReady m false = false ∧ rspValid m false = true ∧ m.answer = some r ∧ rspBus m false = some r.word ∧
      ∀ k < waits.length, ∃ n : State, clockEdges (a :: waits.take k) s = .next n ∧
        cmdReady n false = false ∧ rspValid n false = false ∧ rspBus n false = none

/-- R140: on an edge with `rst = 1` nothing is accepted or delivered and a command in flight is abandoned: it gets no response,
neither on this edge nor on any later edge on which no command is presented. Afterwards the block is idle. That the run's record
is emptied, and not kept as it was, is the model's reading of R151 (log 5), and that `rsp` has no value afterwards, where R140 calls
it unspecified, is the model's choice of log 9. -/
def Obligations.ResetEdgeAbandonsCommand : Prop :=
  ∀ (p : Pins) (s : State), p.rst = true →
    cmdReady s p.rst = false ∧ rspValid s p.rst = false ∧
    ∃ t, clockEdge p s = .next t ∧ t.inFlight = none ∧ t.responses = [] ∧ t.pending = s.pending ∧
      cmdReady t false = true ∧ rspValid t false = false ∧ rspBus t false = none ∧
      ∀ qs : List Pins, (∀ q ∈ qs, q.rst = false ∧ q.cmdValid = false) → clockEdges qs t = .next t

/-- R17: a step of one instance changes no other instance. -/
def Obligations.InstancesShareNothing : Prop :=
  ∀ (k : Nat) (system : List State), ∃ system' : List State, stepInstance k system = .next system' ∧
    system'.length = system.length ∧ (∀ j : Nat, j ≠ k → system'[j]? = system[j]?) ∧
    ∀ s, system[k]? = some s → ∃ t, step s = .next t ∧ system'[k]? = some t

/-- R32, R66: whichever order an arbiter gives the commands of two hosts, if none of them is SEED, the block ends in the same
`seed`: the state after all their successful draws. -/
def Obligations.SeedIgnoresArbitration : Prop :=
  ∀ (xs ys zs : List Instr) (s : State), Interleaving xs ys zs →
    (∀ i ∈ xs, i.isSeed = false) → (∀ i ∈ ys, i.isSeed = false) → s.inFlight = none → s.pending = presented zs →
    ∃ t : State, Host.Core.run Sys2Proof.core zs.length s = .next t ∧
      t.seed = streamAfter ((xs.map Instr.draws).sum + (ys.map Instr.draws).sum) s.seed

/-- R32, R31: whichever host of a shared idle block has a word to present, a step of the system may be that host's next: its
word runs as one whole step of the block, with one response, and no other host's commands change. THE MODEL'S CHOICES in it: that
the response goes to the host that was picked and to no other (`responsesTo`, log 13), and that it is delivered in the step
(log 6). -/
def Obligations.SharedBlockServesAnyHost : Prop :=
  ∀ (sys : SharedBlock) (k : Nat) (w : CommandWord) (ws : List CommandWord),
    sys.block.inFlight = none → sys.ports[k]? = some (w :: ws) →
    ∃ (sys' : SharedBlock) (r : Response), SharedStep sys sys' ∧ sys.grant k = .next sys' ∧
      step (sys.block.presentWord w) = .next sys'.block ∧ sys'.block.inFlight = none ∧
      sys'.block.responses = sys.block.responses ++ [r] ∧
      sys'.ports[k]? = some ws ∧ sys'.responsesTo k = sys.responsesTo k ++ [r] ∧
      ∀ j : Nat, j ≠ k → sys'.ports[j]? = sys.ports[j]? ∧ sys'.responsesTo j = sys.responsesTo j

/-- R32: for two hosts, the arbiter's picks give exactly the interleavings of their whole commands: each interleaving is some
picks' order, and whatever picks use up both hosts' commands, the block has run an interleaving of them as one host's list.
THE MODEL'S CHOICES in it: every response is recorded for the host that was picked (`delivered` and `responsesTo`, log 13), in the
order the block gave them, one for each command of that host, and a command's response is delivered in its step (log 6). -/
def Obligations.ArbiterAdmitsExactlyInterleavings : Prop :=
  ∀ (xs ys : List CommandWord) (s : State), s.inFlight = none →
    (∀ zs : List CommandWord, Interleaving xs ys zs →
      ∃ (picks : List Nat) (t : SharedBlock) (u : State),
        (SharedBlock.mk s [xs, ys] []).grants picks = .next t ∧ t.ports = [[], []] ∧
        Host.Core.run Sys2Proof.core zs.length { s with pending := zs.map .command } = .next u ∧
        t.block = { u with pending := s.pending }) ∧
    (∀ (picks : List Nat) (t : SharedBlock), (SharedBlock.mk s [xs, ys] []).grants picks = .next t → t.ports = [[], []] →
      (∃ (zs : List CommandWord) (u : State), Interleaving xs ys zs ∧
        Host.Core.run Sys2Proof.core zs.length { s with pending := zs.map .command } = .next u ∧
        t.block = { u with pending := s.pending }) ∧
      t.block.responses = s.responses ++ t.delivered.map Prod.snd ∧
      (t.responsesTo 0).length = xs.length ∧ (t.responsesTo 1).length = ys.length)
end

