-- ==== Sys2Proof/Laws/State.lean ====
section
/-! SUPPORT. One lemma per field per update of the state, so that no later proof unfolds a record update. -/

namespace Sys2Proof.Machine

variable (s : State)

/-! ## loadSeed -/

@[simp] theorem State.loadSeed_seed (v : U64) : (s.loadSeed v).seed = v := rfl
@[simp] theorem State.loadSeed_inFlight (v : U64) : (s.loadSeed v).inFlight = s.inFlight := rfl
@[simp] theorem State.loadSeed_pending (v : U64) : (s.loadSeed v).pending = s.pending := rfl
@[simp] theorem State.loadSeed_responses (v : U64) : (s.loadSeed v).responses = s.responses := rfl
@[simp] theorem State.loadSeed_seedWritten (v : U64) : (s.loadSeed v).seedWritten = true := rfl
@[simp] theorem State.loadSeed_runFault (v : U64) : (s.loadSeed v).runFault = s.runFault := rfl
@[simp] theorem State.loadSeed_resetCount (v : U64) : (s.loadSeed v).resetCount = s.resetCount := rfl

/-! ## markFault -/

@[simp] theorem State.markFault_seed (f : RunFault) : (s.markFault f).seed = s.seed := rfl
@[simp] theorem State.markFault_inFlight (f : RunFault) : (s.markFault f).inFlight = s.inFlight := rfl
@[simp] theorem State.markFault_pending (f : RunFault) : (s.markFault f).pending = s.pending := rfl
@[simp] theorem State.markFault_responses (f : RunFault) : (s.markFault f).responses = s.responses := rfl
@[simp] theorem State.markFault_seedWritten (f : RunFault) : (s.markFault f).seedWritten = s.seedWritten := rfl
@[simp] theorem State.markFault_runFault (f : RunFault) : (s.markFault f).runFault = s.runFault.or (some f) := rfl
@[simp] theorem State.markFault_resetCount (f : RunFault) : (s.markFault f).resetCount = s.resetCount := rfl

/-! ## respond -/

@[simp] theorem State.respond_seed (r : Response) : (s.respond r).seed = s.seed := rfl
@[simp] theorem State.respond_inFlight (r : Response) : (s.respond r).inFlight = some ⟨r, 0⟩ := rfl
@[simp] theorem State.respond_pending (r : Response) : (s.respond r).pending = s.pending := rfl
@[simp] theorem State.respond_responses (r : Response) : (s.respond r).responses = s.responses := rfl
@[simp] theorem State.respond_seedWritten (r : Response) : (s.respond r).seedWritten = s.seedWritten := rfl
@[simp] theorem State.respond_runFault (r : Response) : (s.respond r).runFault = s.runFault := rfl
@[simp] theorem State.respond_resetCount (r : Response) : (s.respond r).resetCount = s.resetCount := rfl

/-! ## takeEvent -/

@[simp] theorem State.takeEvent_seed : (s.takeEvent).seed = s.seed := rfl
@[simp] theorem State.takeEvent_inFlight : (s.takeEvent).inFlight = s.inFlight := rfl
@[simp] theorem State.takeEvent_pending : (s.takeEvent).pending = s.pending.tail := rfl
@[simp] theorem State.takeEvent_responses : (s.takeEvent).responses = s.responses := rfl
@[simp] theorem State.takeEvent_seedWritten : (s.takeEvent).seedWritten = s.seedWritten := rfl
@[simp] theorem State.takeEvent_runFault : (s.takeEvent).runFault = s.runFault := rfl
@[simp] theorem State.takeEvent_resetCount : (s.takeEvent).resetCount = s.resetCount := rfl

/-! ## hardReset -/

@[simp] theorem State.hardReset_seed : (s.hardReset).seed = Config.seedAfterReset s.resetCount := rfl
@[simp] theorem State.hardReset_inFlight : (s.hardReset).inFlight = none := rfl
@[simp] theorem State.hardReset_pending : (s.hardReset).pending = s.pending := rfl
@[simp] theorem State.hardReset_responses : (s.hardReset).responses = [] := rfl
@[simp] theorem State.hardReset_seedWritten : (s.hardReset).seedWritten = false := rfl
@[simp] theorem State.hardReset_runFault : (s.hardReset).runFault = none := rfl
@[simp] theorem State.hardReset_resetCount : (s.hardReset).resetCount = s.resetCount + 1 := rfl

/-! ## presentWord -/

@[simp] theorem State.presentWord_seed (w : CommandWord) : (s.presentWord w).seed = s.seed := rfl
@[simp] theorem State.presentWord_inFlight (w : CommandWord) : (s.presentWord w).inFlight = none := rfl
@[simp] theorem State.presentWord_pending (w : CommandWord) : (s.presentWord w).pending = .command w :: s.pending := rfl
@[simp] theorem State.presentWord_responses (w : CommandWord) : (s.presentWord w).responses = s.responses := rfl
@[simp] theorem State.presentWord_seedWritten (w : CommandWord) : (s.presentWord w).seedWritten = s.seedWritten := rfl
@[simp] theorem State.presentWord_runFault (w : CommandWord) : (s.presentWord w).runFault = s.runFault := rfl
@[simp] theorem State.presentWord_resetCount (w : CommandWord) : (s.presentWord w).resetCount = s.resetCount := rfl

/-! ## startLatency -/

@[simp] theorem State.startLatency_seed (op : Opcode) : (s.startLatency op).seed = s.seed := rfl
@[simp] theorem State.startLatency_inFlight (op : Opcode) : (s.startLatency op).inFlight = s.inFlight.map fun f => { f with cyclesLeft := Config.latency op - 1 } := rfl
@[simp] theorem State.startLatency_pending (op : Opcode) : (s.startLatency op).pending = s.pending := rfl
@[simp] theorem State.startLatency_responses (op : Opcode) : (s.startLatency op).responses = s.responses := rfl
@[simp] theorem State.startLatency_seedWritten (op : Opcode) : (s.startLatency op).seedWritten = s.seedWritten := rfl
@[simp] theorem State.startLatency_runFault (op : Opcode) : (s.startLatency op).runFault = s.runFault := rfl
@[simp] theorem State.startLatency_resetCount (op : Opcode) : (s.startLatency op).resetCount = s.resetCount := rfl

/-! ## countDown -/

@[simp] theorem State.countDown_seed : (s.countDown).seed = s.seed := rfl
@[simp] theorem State.countDown_inFlight : (s.countDown).inFlight = s.inFlight.map fun f => { f with cyclesLeft := f.cyclesLeft - 1 } := rfl
@[simp] theorem State.countDown_pending : (s.countDown).pending = s.pending := rfl
@[simp] theorem State.countDown_responses : (s.countDown).responses = s.responses := rfl
@[simp] theorem State.countDown_seedWritten : (s.countDown).seedWritten = s.seedWritten := rfl
@[simp] theorem State.countDown_runFault : (s.countDown).runFault = s.runFault := rfl
@[simp] theorem State.countDown_resetCount : (s.countDown).resetCount = s.resetCount := rfl

/-! ## raiseError -/

@[simp] theorem State.raiseError_seed (st : Status) : (s.raiseError st).seed = s.seed := rfl
@[simp] theorem State.raiseError_inFlight (st : Status) : (s.raiseError st).inFlight = some ⟨.error st, 0⟩ := rfl
@[simp] theorem State.raiseError_pending (st : Status) : (s.raiseError st).pending = s.pending := rfl
@[simp] theorem State.raiseError_responses (st : Status) : (s.raiseError st).responses = s.responses := rfl
@[simp] theorem State.raiseError_seedWritten (st : Status) : (s.raiseError st).seedWritten = s.seedWritten := rfl
@[simp] theorem State.raiseError_runFault (st : Status) : (s.raiseError st).runFault = s.runFault.or st.runFault := rfl
@[simp] theorem State.raiseError_resetCount (st : Status) : (s.raiseError st).resetCount = s.resetCount := rfl

/-! ## A draw's mark (a case split, so not by rfl) -/

@[simp] theorem State.markDraw_seed : s.markDraw.seed = s.seed := by
  unfold State.markDraw; split <;> rfl
@[simp] theorem State.markDraw_inFlight : s.markDraw.inFlight = s.inFlight := by
  unfold State.markDraw; split <;> rfl
@[simp] theorem State.markDraw_pending : s.markDraw.pending = s.pending := by
  unfold State.markDraw; split <;> rfl
@[simp] theorem State.markDraw_responses : s.markDraw.responses = s.responses := by
  unfold State.markDraw; split <;> rfl
@[simp] theorem State.markDraw_seedWritten : s.markDraw.seedWritten = s.seedWritten := by
  unfold State.markDraw; split <;> rfl
@[simp] theorem State.markDraw_runFault :
    s.markDraw.runFault = if s.seedWritten then s.runFault else s.runFault.or (some .drawBeforeSeed) := by
  unfold State.markDraw; split <;> rfl
@[simp] theorem State.markDraw_resetCount : s.markDraw.resetCount = s.resetCount := by
  unfold State.markDraw; split <;> rfl

/-! ## afterDraw and sample -/

@[simp] theorem State.afterDraw_seed : s.afterDraw.seed = transition s.seed := rfl
@[simp] theorem State.afterDraw_inFlight : s.afterDraw.inFlight = s.inFlight := by simp [State.afterDraw]
@[simp] theorem State.afterDraw_pending : s.afterDraw.pending = s.pending := by simp [State.afterDraw]
@[simp] theorem State.afterDraw_responses : s.afterDraw.responses = s.responses := by simp [State.afterDraw]
@[simp] theorem State.afterDraw_seedWritten : s.afterDraw.seedWritten = s.seedWritten := by simp [State.afterDraw]
@[simp] theorem State.afterDraw_runFault : s.afterDraw.runFault = if s.seedWritten then s.runFault else s.runFault.or (some .drawBeforeSeed) := by simp [State.afterDraw]
@[simp] theorem State.afterDraw_resetCount : s.afterDraw.resetCount = s.resetCount := by simp [State.afterDraw]

@[simp] theorem State.sample_seed (result : U32 → U32) : (s.sample result).seed = transition s.seed := rfl
@[simp] theorem State.sample_inFlight (result : U32 → U32) : (s.sample result).inFlight = some ⟨.okay (result s.drawValue), 0⟩ := rfl
@[simp] theorem State.sample_pending (result : U32 → U32) : (s.sample result).pending = s.pending := by simp [State.sample]
@[simp] theorem State.sample_responses (result : U32 → U32) : (s.sample result).responses = s.responses := by simp [State.sample]
@[simp] theorem State.sample_seedWritten (result : U32 → U32) : (s.sample result).seedWritten = s.seedWritten := by simp [State.sample]
@[simp] theorem State.sample_runFault (result : U32 → U32) : (s.sample result).runFault = if s.seedWritten then s.runFault else s.runFault.or (some .drawBeforeSeed) := by simp [State.sample]
@[simp] theorem State.sample_resetCount (result : U32 → U32) : (s.sample result).resetCount = s.resetCount := by simp [State.sample]

/-! ## The response of the command in flight -/

@[simp] theorem State.respond_answer (r : Response) : (s.respond r).answer = some r := rfl
@[simp] theorem State.sample_answer (result : U32 → U32) : (s.sample result).answer = some (.okay (result s.drawValue)) := rfl
@[simp] theorem State.raiseError_answer (st : Status) : (s.raiseError st).answer = some (.error st) := rfl
@[simp] theorem State.hardReset_answer : s.hardReset.answer = none := rfl

end Sys2Proof.Machine
end

