-- ==== Sys2Proof/Laws/Ops.lean ====
section
/-! SUPPORT. For each shared operation, one lemma that says once everything it can do. -/

namespace Sys2Proof.Machine

/-! ## The engine's arithmetic -/

/-- The machine's transition is the spec's `T`. -/
@[simp] theorem transition_eq_streamNext (x : U64) : transition x = streamNext x := rfl

theorem shiftSelector_eq (x : U64) : shiftSelector x = (x.extractLsb 63 61).toNat := by
  have h := x.isLt
  simp only [shiftSelector, Config.shiftSelectorLsb, BitVec.toNat_ushiftRight, BitVec.extractLsb_toNat,
    Nat.shiftRight_eq_div_pow]
  omega

theorem shiftSelector_le (x : U64) : shiftSelector x ≤ 7 := by
  have h := x.isLt
  simp only [shiftSelector, Config.shiftSelectorLsb, BitVec.toNat_ushiftRight, Nat.shiftRight_eq_div_pow]
  omega

/-- The machine's extractor is the spec's `X`. -/
@[simp] theorem extract_eq_streamValue (x : U64) : extract x = streamValue x := by
  simp only [extract, streamValue, shiftAmount, shiftSelector_eq, Config.shiftBase]

@[simp] theorem drawValue_eq (s : State) : s.drawValue = streamValue (streamNext s.seed) :=
  extract_eq_streamValue _

/-! ## Sampling, errors and delivery -/

theorem sample_eq (s : State) (result : U32 → U32) :
    s.sample result =
      { s with
        seed := streamNext s.seed
        inFlight := some ⟨⟨.ok, result (streamValue (streamNext s.seed))⟩, 0⟩
        runFault := if s.seedWritten then s.runFault else s.runFault.or (some .drawBeforeSeed) } := by
  unfold State.sample State.afterDraw State.markDraw State.respond Response.okay State.markFault
  rw [drawValue_eq]
  split <;> rfl

theorem raiseError_eq (s : State) (st : Status) :
    s.raiseError st = { s with inFlight := some ⟨⟨st, 0⟩, 0⟩, runFault := s.runFault.or st.runFault } := rfl

@[simp] theorem deliver_idle (s : State) (h : s.inFlight = none) : s.deliver = s := by
  simp [State.deliver, h]

theorem deliver_answered (s : State) (f : InFlight) (h : s.inFlight = some f) :
    s.deliver = { s with inFlight := none, responses := s.responses ++ [f.rsp] } := by
  simp [State.deliver, h]

@[simp] theorem deliver_inFlight (s : State) : s.deliver.inFlight = none := by
  unfold State.deliver; split <;> simp_all

@[simp] theorem deliver_seed (s : State) : s.deliver.seed = s.seed := by
  unfold State.deliver; split <;> rfl

@[simp] theorem deliver_pending (s : State) : s.deliver.pending = s.pending := by
  unfold State.deliver; split <;> rfl

@[simp] theorem deliver_seedWritten (s : State) : s.deliver.seedWritten = s.seedWritten := by
  unfold State.deliver; split <;> rfl

@[simp] theorem deliver_runFault (s : State) : s.deliver.runFault = s.runFault := by
  unfold State.deliver; split <;> rfl

@[simp] theorem deliver_resetCount (s : State) : s.deliver.resetCount = s.resetCount := by
  unfold State.deliver; split <;> rfl

@[simp] theorem deliver_responses (s : State) : s.deliver.responses = s.responses ++ s.answer.toList := by
  unfold State.deliver State.answer; split <;> simp_all

/-! ## Transactions -/

@[simp] theorem onNext_next {α β : Type} (a : α) (f : α → β) : onNext (.next a) f = .next (f a) := rfl

theorem runWord_instr (w : CommandWord) (i : Instr) (s : State) (h : decode w = .instr i) : runWord w s = exec i s := by
  simp [runWord, h]

theorem runWord_rejected (w : CommandWord) (e : DecodeError) (s : State) (h : decode w = .rejected e) :
    runWord w s = .next (s.raiseError .errIllegalCmd) := by
  simp [runWord, h]

/-- All that a command can do: it is answered, and the host's side of the state stays as it was. -/
theorem exec_answers (i : Instr) (s : State) :
    ∃ t r, exec i s = .next t ∧ t.inFlight = some ⟨r, 0⟩ ∧ hostSideKept s t := by
  have sampled (result : U32 → U32) :
      ∃ t r, (Host.Outcome.next (s.sample result) : Host.Outcome State Fault Refusal) = .next t ∧
        t.inFlight = some ⟨r, 0⟩ ∧ hostSideKept s t := ⟨_, _, rfl, rfl, by simp [hostSideKept]⟩
  have raised (st : Status) :
      ∃ t r, (Host.Outcome.next (s.raiseError st) : Host.Outcome State Fault Refusal) = .next t ∧
        t.inFlight = some ⟨r, 0⟩ ∧ hostSideKept s t := ⟨_, _, rfl, rfl, by simp [hostSideKept]⟩
  cases i with
  | seed ab => exact ⟨_, _, rfl, rfl, by simp [hostSideKept]⟩
  | nextRaw => exact sampled _
  | nextBool => exact sampled _
  | nextIntU range =>
    simp only [exec, execNextIntU]
    split
    · exact sampled _
    · exact raised _
  | nextIntS a b =>
    simp only [exec, execNextIntS]
    split
    · exact sampled _
    · exact raised _
  | nextFloat => exact sampled _
  | nextFloatAB a b => exact sampled _

/-- The same of every word, reserved opcodes among them. -/
theorem runWord_answers (w : CommandWord) (s : State) :
    ∃ t r, runWord w s = .next t ∧ t.inFlight = some ⟨r, 0⟩ ∧ hostSideKept s t := by
  unfold runWord
  split
  · exact exec_answers _ _
  · exact ⟨_, _, rfl, rfl, by simp [hostSideKept]⟩

/-- No command reads or writes what the host will present next. -/
theorem runWord_pending (w : CommandWord) (s : State) (es : List HostEvent) :
    runWord w { s with pending := es } = onNext (runWord w s) fun t => { t with pending := es } := by
  have sampled (result : U32 → U32) :
      ({ s with pending := es } : State).sample result = { s.sample result with pending := es } := by
    rw [sample_eq, sample_eq]
  unfold runWord
  split
  · next i _ =>
    cases i with
    | seed ab => rfl
    | nextRaw => simp only [exec, execNextRaw, sampled]; rfl
    | nextBool => simp only [exec, execNextBool, sampled]; rfl
    | nextIntU range => simp only [exec, execNextIntU, sampled]; split <;> rfl
    | nextIntS a b => simp only [exec, execNextIntS, sampled]; split <;> rfl
    | nextFloat => simp only [exec, execNextFloat, sampled]; rfl
    | nextFloatAB a b => simp only [exec, execNextFloatAB, sampled]; rfl
  · rfl

theorem step_reset (s : State) (es : List HostEvent) (h : s.pending = .reset :: es) :
    step s = .next s.takeEvent.hardReset := by
  simp [step, advance, h]

theorem step_command (s : State) (w : CommandWord) (es : List HostEvent) (h : s.pending = .command w :: es)
    (idle : s.inFlight = none) : step s = transact w s.takeEvent := by
  simp [step, advance, h, idle]

theorem step_answering (s : State) (f : InFlight) (busy : s.inFlight = some f)
    (h : ∀ es, s.pending ≠ .reset :: es) : step s = .next s.deliver := by
  unfold step advance
  split <;> simp_all

theorem step_idle (s : State) (h : s.pending = []) (idle : s.inFlight = none) : step s = .next s := by
  simp [step, advance, h, idle]

/-- The four things a step can do. -/
theorem step_cases (s : State) :
    (∃ es, s.pending = .reset :: es ∧ step s = .next s.takeEvent.hardReset) ∨
    (∃ f, s.inFlight = some f ∧ step s = .next s.deliver) ∨
    (∃ w es, s.pending = .command w :: es ∧ s.inFlight = none ∧ step s = transact w s.takeEvent) ∨
    (s.pending = [] ∧ s.inFlight = none ∧ step s = .next s) := by
  unfold step advance
  split <;> simp_all

/-! ## Clock edges -/

theorem clockEdge_reset (p : Pins) (s : State) (h : p.rst = true) : clockEdge p s = .next s.hardReset := by
  simp [clockEdge, h]

theorem clockEdge_accept (p : Pins) (s : State) (h : p.rst = false) (idle : s.inFlight = none)
    (hv : p.cmdValid = true) : clockEdge p s = onNext (runWord p.cmd s) (State.startLatency · (opField p.cmd)) := by
  simp [clockEdge, cmdReady, h, idle, hv]

theorem clockEdge_wait (p : Pins) (s : State) (r : Response) (n : Nat) (h : p.rst = false)
    (busy : s.inFlight = some ⟨r, n + 1⟩) : clockEdge p s = .next { s with inFlight := some ⟨r, n⟩ } := by
  simp [clockEdge, cmdReady, rspValid, h, busy, State.countDown]

theorem clockEdge_hold (p : Pins) (s : State) (r : Response) (h : p.rst = false) (hr : p.rspReady = false)
    (busy : s.inFlight = some ⟨r, 0⟩) : clockEdge p s = .next s := by
  simp [clockEdge, cmdReady, rspValid, h, hr, busy]

theorem clockEdge_deliver (p : Pins) (s : State) (r : Response) (h : p.rst = false) (hr : p.rspReady = true)
    (busy : s.inFlight = some ⟨r, 0⟩) : clockEdge p s = .next s.deliver := by
  simp [clockEdge, cmdReady, rspValid, h, hr, busy]

/-! ## Several hosts on one block -/

@[simp] theorem SharedBlock.reset_block (sys : SharedBlock) : sys.reset.block = sys.block.hardReset := rfl
@[simp] theorem SharedBlock.reset_ports (sys : SharedBlock) : sys.reset.ports = sys.ports := rfl
@[simp] theorem SharedBlock.reset_delivered (sys : SharedBlock) : sys.reset.delivered = [] := rfl

theorem grant_nothing (sys : SharedBlock) (k : Nat) (h : ∀ w ws, sys.ports[k]? ≠ some (w :: ws)) :
    sys.grant k = .next sys := by
  unfold SharedBlock.grant
  split
  · next h' => exact absurd h' (h _ _)
  · rfl

theorem grant_busy (sys : SharedBlock) (k : Nat) (f : InFlight) (h : sys.block.inFlight = some f) :
    sys.grant k = .next sys := by
  unfold SharedBlock.grant
  split <;> simp [cmdReady, h]

/-- A granted host's word runs whole, and its one response goes to that host. -/
theorem grant_command (sys : SharedBlock) (k : Nat) (w : CommandWord) (ws : List CommandWord)
    (idle : sys.block.inFlight = none) (h : sys.ports[k]? = some (w :: ws)) :
    ∃ t r, runWord w sys.block = .next t ∧ t.answer = some r ∧
      sys.grant k =
        .next { block := t.deliver, ports := sys.ports.set k ws, delivered := sys.delivered ++ [(k, r)] } := by
  obtain ⟨t, r, hrun, hflight, -⟩ := runWord_answers w sys.block
  have hanswer : t.answer = some r := by simp [State.answer, hflight]
  exact ⟨t, r, hrun, hanswer, by simp [SharedBlock.grant, h, cmdReady, idle, hrun, hanswer]⟩

/-- Whatever the arbiter picks, the block is as it was, or one whole command of the picked host has run. -/
theorem grant_cases (sys : SharedBlock) (k : Nat) :
    sys.grant k = .next sys ∨
    ∃ w ws t r, sys.block.inFlight = none ∧ sys.ports[k]? = some (w :: ws) ∧ runWord w sys.block = .next t ∧
      t.answer = some r ∧
      sys.grant k =
        .next { block := t.deliver, ports := sys.ports.set k ws, delivered := sys.delivered ++ [(k, r)] } := by
  cases hb : sys.block.inFlight with
  | some f => exact .inl (grant_busy sys k f hb)
  | none =>
    by_cases h : ∃ w ws, sys.ports[k]? = some (w :: ws)
    · obtain ⟨w, ws, h⟩ := h
      obtain ⟨t, r, hrun, hanswer, hgrant⟩ := grant_command sys k w ws hb h
      exact .inr ⟨w, ws, t, r, rfl, h, hrun, hanswer, hgrant⟩
    · exact .inl (grant_nothing sys k fun w ws hp => h ⟨w, ws, hp⟩)

end Sys2Proof.Machine
end

