-- ==== Sys2Proof/Laws/PerInstr.lean ====
section
/-! SUPPORT. Facts made per instruction. The family EncodedFields says that the word of a command holds its opcode, its `b` operand and
its `a` operand in the fields of R40, whichever values the operands have. -/

namespace Sys2Proof

/-- The command word as a number: its fields at the places R40 gives them. -/
theorem packWord_toNat (op : Opcode) (b a : U32) :
    (packWord op b a).toNat = op.toNat * 2 ^ 64 + b.toNat * 2 ^ 32 + a.toNat := by
  have h : (packWord op b a).toNat = (op.toNat <<< 32 ||| b.toNat) <<< 32 ||| a.toNat := rfl
  rw [h, ← Nat.shiftLeft_add_eq_or_of_lt a.isLt, ← Nat.shiftLeft_add_eq_or_of_lt b.isLt]
  simp only [Nat.shiftLeft_eq]
  ring

theorem opField_packWord (op : Opcode) (b a : U32) : opField (packWord op b a) = op := by
  have ha := a.isLt; have hb := b.isLt; have ho := op.isLt
  apply BitVec.eq_of_toNat_eq
  simp only [opField, BitVec.extractLsb'_toNat, packWord_toNat, Nat.shiftRight_eq_div_pow]
  omega

theorem bField_packWord (op : Opcode) (b a : U32) : bField (packWord op b a) = b := by
  have ha := a.isLt; have hb := b.isLt
  apply BitVec.eq_of_toNat_eq
  simp only [bField, BitVec.extractLsb'_toNat, packWord_toNat, Nat.shiftRight_eq_div_pow]
  omega

theorem aField_packWord (op : Opcode) (b a : U32) : aField (packWord op b a) = a := by
  have ha := a.isLt
  apply BitVec.eq_of_toNat_eq
  simp only [aField, BitVec.extractLsb'_toNat, packWord_toNat, Nat.shiftRight_eq_div_pow]
  omega

/-- The fields of the word a command encodes to. -/
def Laws.EncodedFields.Statement (i : Instr) : Prop :=
  opField (encode i) = i.opcode ∧ bField (encode i) = i.bOperand ∧ aField (encode i) = i.aOperand

theorem Laws.encodedFields_of_packWord (i : Instr) : Laws.EncodedFields.Statement i :=
  ⟨opField_packWord _ _ _, bField_packWord _ _ _, aField_packWord _ _ _⟩

theorem Laws.EncodedFields.seed (ab : U64) : Laws.EncodedFields.Statement (.seed ab) := Laws.encodedFields_of_packWord _
theorem Laws.EncodedFields.nextRaw : Laws.EncodedFields.Statement .nextRaw := Laws.encodedFields_of_packWord _
theorem Laws.EncodedFields.nextBool : Laws.EncodedFields.Statement .nextBool := Laws.encodedFields_of_packWord _
theorem Laws.EncodedFields.nextIntU (range : U32) : Laws.EncodedFields.Statement (.nextIntU range) := Laws.encodedFields_of_packWord _
theorem Laws.EncodedFields.nextIntS (a b : U32) : Laws.EncodedFields.Statement (.nextIntS a b) := Laws.encodedFields_of_packWord _
theorem Laws.EncodedFields.nextFloat : Laws.EncodedFields.Statement .nextFloat := Laws.encodedFields_of_packWord _
theorem Laws.EncodedFields.nextFloatAB (a b : U32) : Laws.EncodedFields.Statement (.nextFloatAB a b) := Laws.encodedFields_of_packWord _

end Sys2Proof
end

