-- ==== Sys2Proof/Tests/Slice0.lean ====
section
/-! SUPPORT. The model's own tests, expected values taken from 95_test_vectors.md and 30_encoding.md R48, and for each
statement with hypotheses a witness that meets them. -/

namespace Sys2Proof.Tests

open Sys2Proof Sys2Proof.Machine

/-! ## Helpers -/

/-- A block seeded with `v`. -/
def seeded (v : U64) : State := { State.reset with seed := v, seedWritten := true }

/-- The response to one word presented to a block seeded with `v`, and the `seed` after it. -/
def answered (v : U64) (w : CommandWord) : Option (Response × U64) :=
  match step ((seeded v).withFetchWord 72 w.toNat) with
  | .next t => t.responses.getLast?.map fun r => (r, t.seed)
  | .fault _ => none
  | .refused _ => none

/-- The raw draw after `SEED 1`, `0xa5ed98d1`, comes from this state (R65). -/
def afterOne : U64 := 0x7297b66345af756a

/-- A block with this one word presented. -/
def presenting (w : CommandWord) : State := { seeded 1 with pending := [.command w] }

/-! ## Well-formedness: ill-formed terms are refused -/

theorem smoke_seed_width : Instr.wellFormedAt 32 (.seed 0x80000000) = false := by decide
theorem smoke_seed_width_ok : Instr.wellFormedAt 32 (.seed 0xffffffff80000000) = true := by decide
theorem smoke_seed_range : Asm.wellFormed (.seed (.dec 9223372036854775808)) = false := by decide
theorem smoke_seed_hex : Asm.wellFormed (.seed (.hex 0x10000000000000000)) = false := by decide
theorem smoke_seed32_range : Asm.wellFormed (.seed32 (.dec 2147483648)) = false := by decide
theorem smoke_range_negative : Asm.wellFormed (.nextIntU (.dec (-1))) = false := by decide
theorem smoke_range_hex : Asm.wellFormed (.nextIntU (.hex 0x100000000)) = false := by decide
theorem smoke_bound_b : Asm.wellFormed (.nextIntS (.dec 0) (.dec 2147483648)) = false := by decide
theorem smoke_float_decimal : Asm.wellFormed (.nextFloatAB (.dec 1) (.hex 0x40000000)) = false := by decide
theorem smoke_float_hex : Asm.wellFormed (.nextFloatAB (.hex 0) (.hex 0x100000000)) = false := by decide
theorem smoke_shuffle_too_long : Asm.wellFormed (.randomShuffle "seq" (.dec 4294967296)) = false := by decide

/-! ## Decoding: words written out from R42 and R48, op then b then a -/

theorem test_decode_seed : decode (0b0001#4 ++ 0xffffffff#32 ++ 0x80000000#32) = .instr (.seed 0xffffffff80000000) := by
  decide
theorem test_decode_nextRaw : decode (0b0010#4 ++ 0xffffffff#32 ++ 0xffffffff#32) = .instr .nextRaw := by decide
theorem test_decode_nextBool : decode (0b0011#4 ++ 0xdeadbeef#32 ++ 0xcafef00d#32) = .instr .nextBool := by decide
theorem test_decode_nextIntU : decode (0b0100#4 ++ 0x00000001#32 ++ 0x00000000#32) = .instr (.nextIntU 0) := by decide
theorem test_decode_nextIntS : decode (0b0101#4 ++ 0x00000003#32 ++ 0xfffffffd#32) = .instr (.nextIntS 0xfffffffd 3) := by
  decide
theorem test_decode_nextFloat : decode (0b0110#4 ++ 0x12345678#32 ++ 0x9abcdef0#32) = .instr .nextFloat := by decide
theorem test_decode_nextFloatAB :
    decode (0b0111#4 ++ 0x40000000#32 ++ 0x3f800000#32) = .instr (.nextFloatAB 0x3f800000 0x40000000) := by decide
theorem test_decode_reserved : decode 0xfffffffffffffffff = .rejected (.reservedOpcode 15) := by decide
theorem test_decode_zero_word : decode 0x00000000400000000 = .rejected (.reservedOpcode 0) := by decide
theorem test_encode_nextIntS : encode (.nextIntS 0xfffffffd 3) = 0x500000003fffffffd := by decide

theorem test_tableWord_nextFloatAB : decodeTableWord 72 0x7400000003f800000 = some (.nextFloatAB 0x3f800000 0x40000000) := by
  decide +kernel
theorem test_tableWord_reserved : decodeTableWord 72 0x80000000000000000 = none := by decide +kernel
theorem test_bytes_of_nextIntU : commandBytes (encode (.nextIntU 0x0a0b0c0d)) = [0x0d, 0x0c, 0x0b, 0x0a, 0, 0, 0, 0, 4] := by
  decide +kernel
theorem test_bytes_too_few : decodeBytes [1, 2, 3] = .rejected (.tooFewBytes 3) := by decide +kernel
theorem test_bytes_padding : decodeBytes [0, 0, 0, 0, 0, 0, 0, 0, 0x12] = .rejected .paddingNotZero := by decide +kernel

/-! ## One step each (sections 2 to 7 of the vectors) -/

theorem test_seed_minus_one :
    answered 1 0x1ffffffffffffffff = some (⟨.ok, 0⟩, 0xffffffffffffffff) := by decide +kernel
theorem test_nextRaw_ignores_operands : answered 1 0x2ffffffffffffffff = some (⟨.ok, 0xa5ed98d1⟩, afterOne) := by
  decide +kernel
theorem test_nextRaw_seven_selector :
    answered 0x14fbe141d9c8d0cf 0x20000000000000000 = some (⟨.ok, 0xffffffff⟩, 0xe03fffffffc00000) := by decide +kernel
theorem test_nextBool_bit_two : answered 0xe0143e554f08d0cf 0x30000000000000000 = some (⟨.ok, 1⟩, 0x80000000) := by
  decide +kernel
theorem test_nextBool_not_bit_zero : answered 0x7d0380e56f08d0cf 0x30000000000000000 = some (⟨.ok, 0⟩, 0x20000000) := by
  decide +kernel
theorem test_nextIntU_ignores_b : answered 1 0x4ffffffff0000000a = some (⟨.ok, 3⟩, afterOne) := by decide +kernel
theorem test_nextIntU_zero_range : answered 1 0x40000000100000000 = some (⟨.errOperand, 0⟩, 1) := by decide +kernel
theorem test_nextIntS_wide : answered 1 0x57ffffffe80000000 = some (⟨.ok, 0x25ed98d1⟩, afterOne) := by decide +kernel
theorem test_nextIntS_full_range : answered 1 0x57fffffff80000000 = some (⟨.errOperand, 0⟩, 1) := by decide +kernel
theorem test_nextFloat_rounds_up : answered 1 0x60000000000000000 = some (⟨.ok, 0x3f25ed99⟩, afterOne) := by
  decide +kernel
theorem test_nextFloat_zero_draw : answered 0x5bfdec6acf08d0cf 0x60000000000000000 = some (⟨.ok, 0⟩, 0) := by
  decide +kernel
theorem test_nextFloatAB_tie : answered 1 0x7400000003f800000 = some (⟨.ok, 0x3fd2f6cc⟩, afterOne) := by decide +kernel
theorem test_nextFloatAB_subnormal : answered 1 0x70000000300000001 = some (⟨.ok, 2⟩, afterOne) := by decide +kernel
theorem test_illegal_word : answered 1 0xa0000000000000000 = some (⟨.errIllegalCmd, 0⟩, 1) := by decide +kernel

/-! ## The binary32 operations (sections 5.1 and 5.3) -/

theorem test_convert_carry : u32ToF32 0xffffff80 = 0x4f800000 := by decide +kernel
theorem test_convert_tie_even : u32ToF32 0x01000001 = 0x4b800000 := by decide +kernel
theorem test_add_cancels : f32Add 0x3fa5ed99 0xbf800000 = 0x3e97b664 := by decide +kernel
theorem test_add_negative_zeros : f32Add 0x80000000 0x80000000 = 0x80000000 := by decide +kernel
theorem test_sub_finite_minus_inf : f32Sub 0x3f800000 0x7f800000 = 0xff800000 := by decide +kernel
theorem test_sub_overflows : f32Sub 0x7f7fffff 0xff7fffff = 0x7f800000 := by decide +kernel
theorem test_mul_zero_inf : f32Mul 0 0x7f800000 = 0x7fc00000 := by decide +kernel
theorem test_mul_underflows : f32Mul 0x2f800000 2 = 0 := by decide +kernel

/-! ## Marks, reset, the shuffle, the assembler -/

/-- The mark and the responses after one step. -/
def marked (s : State) : Option (Option RunFault × List Response) :=
  match step s with
  | .next t => some (t.runFault, t.responses)
  | .fault _ => none
  | .refused _ => none

theorem test_draw_before_seed : (marked (State.reset.withFetchWord 72 0x20000000000000000)).map Prod.fst =
    some (some .drawBeforeSeed) := by decide +kernel
theorem test_first_mark_stays :
    (marked { seeded 1 with pending := [.command 0], runFault := some .operandError }).map Prod.fst =
      some (some .operandError) := by decide +kernel
theorem test_reset_abandons :
    marked { seeded 1 with pending := [.reset], inFlight := some ⟨⟨.ok, 5⟩, 0⟩, runFault := some .operandError } =
      some (none, []) := by decide

/-- The list and the seed a shuffle leaves. -/
def shuffled (v : U64) (xs : List Nat) : Option (List Nat × U64) :=
  match hostShuffle (seeded v) xs with
  | some (.next (t, ys)) => some (ys, t.seed)
  | _ => none

theorem test_shuffle_seed_42 : shuffled 42 [1, 2, 3, 4, 5] = some ([4, 3, 5, 1, 2], 0xf0d56188ccff0fc6) := by
  decide +kernel
theorem test_shuffle_one_element : shuffled 1 [7] = some ([7], 1) := by decide +kernel

theorem test_assemble_nextIntS : assembleLine "NEXTINT_S -3, 3 ; the example of R48".toList = some [0x500000003fffffffd] := by
  decide +kernel
theorem test_assemble_seed32 : assembleLine "  SEED32 -1".toList = some [0x1ffffffffffffffff] := by decide +kernel
theorem test_assemble_float : assembleLine "NEXTFLOAT_AB 0x3f800000, 0x40000000".toList = some [0x7400000003f800000] := by
  decide +kernel
theorem test_assemble_shuffle : assembleLine "RANDOMSHUFFLE seq, 5".toList =
    some [0x40000000000000005, 0x40000000000000004, 0x40000000000000003, 0x40000000000000002] := by decide +kernel
theorem test_assemble_float_decimal : assembleLine "NEXTFLOAT_AB 1, 2".toList = none := by decide +kernel
theorem test_assemble_label : assembleLine "loop:   NEXTBOOL                 ; host: if res == 0 goto loop".toList =
    some [0x30000000000000000] := by decide +kernel
theorem test_assemble_label_alone : assembleLine "loop:".toList = some [] := by decide
theorem test_assemble_comment : assembleLine "; i = 4".toList = some [] := by decide +kernel

/-! ## Witnesses: each statement's hypotheses can be met, at the ends of their ranges -/

theorem witness_DecodeInvertsEncode : Instr.wellFormed (.seed 0x8000000000000000) = true := by decide
theorem witness_DecodeByOpcode_one : (0x1ffffffffffffffff : CommandWord).extractLsb 67 64 = 1 := by decide
theorem witness_DecodeByOpcode_two : (0x20000000000000000 : CommandWord).extractLsb 67 64 = 2 := by decide
theorem witness_DecodeByOpcode_three : (0x3ffffffffffffffff : CommandWord).extractLsb 67 64 = 3 := by decide
theorem witness_DecodeByOpcode_four : (0x40000000000000000 : CommandWord).extractLsb 67 64 = 4 := by decide
theorem witness_DecodeByOpcode_five : (0x5ffffffffffffffff : CommandWord).extractLsb 67 64 = 5 := by decide
theorem witness_DecodeByOpcode_six : (0x60000000000000000 : CommandWord).extractLsb 67 64 = 6 := by decide
theorem witness_DecodeByOpcode_seven : (0x7ffffffffffffffff : CommandWord).extractLsb 67 64 = 7 := by decide
theorem witness_DecodeByOpcode_reserved :
    (0x0ffffffffffffffff : CommandWord).extractLsb 67 64 = 0 ∧ 8 ≤ ((0x80000000000000000 : CommandWord).extractLsb 67 64).toNat ∧
      8 ≤ ((0xf0000000000000000 : CommandWord).extractLsb 67 64).toNat := by decide
theorem witness_EncodeClearsIgnoredBits : decode 0x4ffffffff0000000a = .instr (.nextIntU 10) := by decide
theorem witness_PseudoInstructionsExpand :
    (-2147483648 : Int) ≤ -2147483648 ∧ (-2147483648 : Int) < 2147483648 ∧ (-2147483648 : Int) ≤ 2147483647 ∧
      (2147483647 : Int) < 2147483648 ∧ (0 : Nat) ≤ 4294967295 ∧ 4294967295 ≤ 4294967295 ∧ 0 < 2 - 1 := by decide
theorem witness_ByteTransportLayout : (0 : Nat) < 9 ∧ 8 < 9 ∧ 0 < 5 ∧ 4 < 5 := by decide
theorem witness_ResponseWordLayout :
    (⟨.ok, 0⟩ : Response).st = .ok ∧ (⟨.errIllegalCmd, 0⟩ : Response).st = .errIllegalCmd ∧
      (⟨.errOperand, 0⟩ : Response).st = .errOperand := by decide
theorem witness_ExtractorWindow : (0 : Nat) < 32 ∧ 31 < 32 := by decide
theorem witness_LowBitsNeverReachADraw : (0x12345678003fffff : U64) >>> 22 = (0x1234567800000000 : U64) >>> 22 := by decide
theorem witness_SeedInstallsOperand :
    (0x1000000000000002a : CommandWord).extractLsb 67 64 = 1 ∧ (0x1000000000000002a : CommandWord).extractLsb 63 0 = 42 := by
  decide
theorem witness_NextRawAnswersDraw : (0x2ffffffffffffffff : CommandWord).extractLsb 67 64 = 2 := by decide
theorem witness_NextBoolAnswersBitTwo : (0x3deadbeefcafef00d : CommandWord).extractLsb 67 64 = 3 := by decide
theorem witness_NextIntUAnswersRemainder :
    (0x4ffffffff0000000a : CommandWord).extractLsb 67 64 = 4 ∧ (0x4ffffffff0000000a : CommandWord).extractLsb 31 0 = 10 ∧
      (1 : U32) ≠ 0 ∧ (0xffffffff : U32) ≠ 0 ∧ (0 : U32) = 0 := by decide
theorem witness_NextIntSAnswersInRange_words :
    (0x500000003fffffffd : CommandWord).extractLsb 67 64 = 5 ∧ (0x500000003fffffffd : CommandWord).extractLsb 31 0 = 0xfffffffd ∧
      (0x500000003fffffffd : CommandWord).extractLsb 63 32 = 3 := by decide
/-- Accepted: one value, and the two widest ranges that are not full. Failing: `b = a - 1`, and the full range. -/
theorem witness_NextIntSAnswersInRange_bounds :
    ((0 : U32).toInt ≤ (0 : U32).toInt ∧ ¬((0 : U32).toInt = -2147483648 ∧ (0 : U32).toInt = 2147483647)) ∧
    ((0x80000000 : U32).toInt ≤ (0x7ffffffe : U32).toInt ∧
      ¬((0x80000000 : U32).toInt = -2147483648 ∧ (0x7ffffffe : U32).toInt = 2147483647)) ∧
    ((0x80000001 : U32).toInt ≤ (0x7fffffff : U32).toInt ∧
      ¬((0x80000001 : U32).toInt = -2147483648 ∧ (0x7fffffff : U32).toInt = 2147483647)) ∧
    (2 : U32).toInt < (3 : U32).toInt ∧
    ((0x80000000 : U32).toInt = -2147483648 ∧ (0x7fffffff : U32).toInt = 2147483647) := by decide
theorem witness_NextFloatAnswersUnit :
    (0x6123456789abcdef0 : CommandWord).extractLsb 67 64 = 6 ∧ streamValue (streamNext 0x5bfdec6acf08d0cf) = 0 ∧
      streamValue (streamNext 0x7d0380e56f08d0cf) ≠ 0 := by decide +kernel
theorem witness_NextFloatABAnswersAffineMap :
    (0x7400000003f800000 : CommandWord).extractLsb 67 64 = 7 ∧ (0x7400000003f800000 : CommandWord).extractLsb 31 0 = 0x3f800000 ∧
      (0x7400000003f800000 : CommandWord).extractLsb 63 32 = 0x40000000 := by decide
theorem witness_ReservedOpcodeAnswersIllegal :
    (0 : CommandWord).extractLsb 67 64 = 0 ∧ 8 ≤ ((0x80000000000000000 : CommandWord).extractLsb 67 64).toNat ∧
      8 ≤ ((0xfffffffffffffffff : CommandWord).extractLsb 67 64).toNat := by decide
theorem witness_FailedCommandLeavesNoTrace :
    Instr.accepted (.nextIntU 0) = false ∧ Instr.accepted (.nextIntS 3 2) = false ∧
      Instr.accepted (.nextIntS 0x80000000 0x7fffffff) = false := by decide
theorem witness_AnswerDependsOnSeedAlone : (seeded 1).seed = (presenting 0).seed ∧ seeded 1 ≠ presenting 0 := by decide
/-- The three clauses: a failing command, a draw before SEED, and a draw after it. -/
theorem witness_MarksOfEveryCommand :
    Instr.accepted (.nextIntU 0) = false ∧ (Instr.draws .nextRaw = 1 ∧ State.reset.seedWritten = false) ∧
      (Instr.accepted .nextRaw = true ∧ (seeded 1).seedWritten = true) := by decide
theorem witness_StepRunsTheDecodedCommand :
    (presenting 0x10000000000000007).inFlight = none ∧
      (presenting 0x10000000000000007).pending = [.command 0x10000000000000007] ∧
      decode 0x10000000000000007 = .instr (.seed 7) ∧
      exec (.seed 7) { presenting 0x10000000000000007 with pending := [] } =
        .next { seeded 1 with seed := 7, inFlight := some ⟨⟨.ok, 0⟩, 0⟩ } := by
  refine ⟨rfl, rfl, by decide, rfl⟩
theorem witness_EveryWordGetsOneResponse :
    (presenting 0x80000000000000000).inFlight = none ∧
      (presenting 0x80000000000000000).pending = [.command 0x80000000000000000] ∧
      8 ≤ ((0x80000000000000000 : CommandWord).extractLsb 67 64).toNat ∧ (0 : CommandWord).extractLsb 67 64 = 0 := by decide

/-- A block whose response waits at the channel while the host presents another word. -/
def waiting : State := { presenting 0x20000000000000000 with inFlight := some ⟨⟨.ok, 5⟩, 0⟩ }

theorem witness_WaitingResponseIsDelivered :
    waiting.inFlight = some ⟨⟨.ok, 5⟩, 0⟩ ∧ ∀ es, waiting.pending ≠ .reset :: es := by
  refine ⟨rfl, fun es h => ?_⟩
  simp [waiting, presenting] at h
theorem witness_IdleBlockHoldsSeed : (seeded 1).inFlight = none ∧ (seeded 1).pending = [] := by decide
theorem witness_ResetLeavesBlockIdle : ({ waiting with pending := [.reset] } : State).pending = .reset :: [] := by decide
theorem witness_RunFollowsPureTransitions :
    ({ seeded 1 with pending := presented [.nextRaw, .nextIntU 0, .nextFloat] } : State).inFlight = none ∧
      ({ seeded 1 with pending := presented [.nextRaw, .nextIntU 0, .nextFloat] } : State).pending =
        presented [.nextRaw, .nextIntU 0, .nextFloat] := by decide
/-- SEED 1, then a draw, a failing command and a draw: the last is the second successful draw. -/
theorem witness_StreamProperty :
    ({ State.reset with pending := presented [.seed 1, .nextRaw, .nextIntU 0, .nextBool] } : State).inFlight = none ∧
      (∀ i ∈ [Instr.nextRaw, .nextIntU 0, .nextBool], i.isSeed = false) ∧
      [Instr.nextRaw, .nextIntU 0, .nextBool][2]? = some .nextBool ∧ Instr.accepted .nextBool = true := by decide
theorem witness_SeedRestartsTheStream :
    ({ seeded 1 with pending := presented [.seed 42, .nextRaw] } : State).inFlight = none ∧
      ({ State.reset with pending := presented [.seed 42, .nextRaw] } : State).inFlight = none ∧
      ({ seeded 1 with pending := presented [.seed 42, .nextRaw] } : State).pending =
        ({ State.reset with pending := presented [.seed 42, .nextRaw] } : State).pending := by decide
/-- A clean seeded run that has answered a command, and the step in which it answers the next. -/
theorem witness_RunInvariantKept :
    ({ presenting 0x10000000000000007 with responses := [⟨.ok, 0⟩] } : State).runInv ∧
      step { presenting 0x10000000000000007 with responses := [⟨.ok, 0⟩] } =
        .next { seeded 7 with responses := [⟨.ok, 0⟩, ⟨.ok, 0⟩] } := by
  refine ⟨⟨?_, ?_, ?_⟩, rfl⟩ <;> simp [State.allResponses, State.answer, presenting, seeded, State.reset, State.clean]
theorem witness_ModuloBiasCount : (0 : U32).toNat < (1 : U32).toNat ∧ (0xfffffffe : U32).toNat < (0xffffffff : U32).toNat ∧
    (0 : U32).toNat < 2 ^ 32 % (3 : U32).toNat ∧ ¬(1 : U32).toNat < 2 ^ 32 % (3 : U32).toNat := by decide
theorem witness_ConversionIsNearest : (1 : U32) ≠ 0 ∧ (0xffffffff : U32) ≠ 0 := by decide
theorem witness_UnitScalesTheConversion : (1 : U32) ≠ 0 ∧ (0xffffff80 : U32) ≠ 0 := by decide
theorem witness_UnitLiesInClosedInterval : (1 : U32) ≠ 0 ∧ 0xffffff80 ≤ (0xffffff80 : U32).toNat := by decide
theorem witness_UnitIsMonotone : (0xffffff7f : U32).toNat ≤ (0xffffff80 : U32).toNat := by decide
/-- The greatest finite value plus half its last place is the overflow bound exactly; one value less stays below it. -/
theorem witness_SumIsCorrectlyRounded :
    f32IsFinite 0x7f7fffff = true ∧ f32IsFinite 0x73000000 = true ∧ f32IsFinite 0x72ffffff = true ∧
      f32IsFinite 0xff7fffff = true ∧ f32IsFinite 0xf3000000 = true ∧
      f32Value 0x7f7fffff + f32Value 0x73000000 = f32OverflowBound ∧
      |f32Value 0x7f7fffff + f32Value 0x72ffffff| < f32OverflowBound ∧
      f32Value 0xff7fffff + f32Value 0xf3000000 = -f32OverflowBound ∧
      f32Value 0x3f800000 + f32Value 0xbf800000 = 0 ∧ f32Value 0x80000000 + f32Value 0x80000000 = 0 := by
  decide +kernel
theorem witness_DifferenceIsCorrectlyRounded :
    f32Value 0x7f7fffff - f32Value 0xf3000000 = f32OverflowBound ∧
      |f32Value 0x7f7fffff - f32Value 0xf2ffffff| < f32OverflowBound ∧
      f32Value 0xff7fffff - f32Value 0x73000000 = -f32OverflowBound ∧
      f32Value 0x80000000 - f32Value 0 = 0 ∧ f32Value 0xbf800000 - f32Value 0xbf800000 = 0 ∧
      f32Value 0 - f32Value 0x80000000 = 0 := by
  decide +kernel
/-- 0x7f7fffff times 1 stays below the bound; 1082401 * 2^103 times 31 is the bound exactly; the greatest finite value times 2
goes beyond it. -/
theorem witness_ProductIsCorrectlyRounded :
    |f32Value 0x7f7fffff * f32Value 0x3f800000| < f32OverflowBound ∧
      |f32Value 0x7d042108 * f32Value 0x41f80000| = f32OverflowBound ∧ f32IsFinite 0x7d042108 = true ∧
      f32OverflowBound ≤ |f32Value 0x7f7fffff * f32Value 0x40000000| ∧
      |f32Value 0x00000001 * f32Value 0x3f000000| < f32OverflowBound := by
  decide +kernel
theorem witness_SpecialOperands :
    (f32IsNaN 0x7f800001 || f32IsNaN 0) = true ∧ (f32IsNaN 0 || f32IsNaN 0xffffffff) = true ∧ f32IsInf 0x7f800000 = true ∧
      f32IsInf 0xff800000 = true ∧ f32IsFinite 0x7f7fffff = true ∧ f32IsNaN 0 = false := by decide
theorem witness_FloatABCornerCases :
    (f32IsNaN 0x7fc00001 || f32IsNaN 0) = true ∧ f32IsFinite 0x80000000 = true ∧ f32IsFinite 0xbf800000 = true ∧
      f32IsFinite (f32Sub 0xbf800000 0x80000000) = true := by decide +kernel
theorem witness_FloatABLowerBound :
    f32IsFinite 0x3f800000 = true ∧ f32IsFinite 0x40000000 = true ∧ f32Value 0x3f800000 ≤ f32Value 0x40000000 ∧
      f32IsFinite (f32Sub 0x40000000 0x3f800000) = true := by decide +kernel
theorem witness_SwapExchangesTwoPositions : 0 < [10, 20, 30].length ∧ 2 < [10, 20, 30].length ∧ 1 ≠ 0 ∧ 1 ≠ 2 := by decide
theorem witness_ShuffleIsPermutation :
    (seeded 42).inFlight = none ∧ [1, 2, 3, 4, 5].length ≤ 2 ^ 32 - 1 ∧ [7].length ≤ 1 := by decide
theorem witness_ShuffleMatchesPureFunction : (seeded 42).inFlight = none ∧ [1, 2, 3].length ≤ 2 ^ 32 - 1 := by decide
theorem witness_ShuffleIgnoresElements : (seeded 1).inFlight = none ∧ [10, 20, 30, 40].length ≤ 2 ^ 32 - 1 := by decide
/-- Edges that accept NEXTRAW, let its latency pass, keep the host unready once, and deliver. -/
theorem witness_EdgesDoWhatAStepDoes :
    (seeded 1).inFlight = none ∧
      (List.replicate (Config.latency (opField 0x20000000000000000) - 1) (⟨false, true, 0, true⟩ : Pins)).length =
        Config.latency (opField (⟨false, true, 0x20000000000000000, false⟩ : Pins).cmd) - 1 ∧
      (∀ p ∈ List.replicate (Config.latency (opField 0x20000000000000000) - 1) (⟨false, true, 0, true⟩ : Pins),
        p.rst = false) ∧
      (∀ p ∈ [(⟨false, true, 0, false⟩ : Pins)], p.rst = false ∧ p.rspReady = false) ∧
      (⟨false, false, 0, true⟩ : Pins).rst = false ∧ (⟨false, false, 0, true⟩ : Pins).rspReady = true := by
  refine ⟨rfl, by simp, fun p hp => ?_, by decide, rfl, rfl⟩
  rw [List.eq_of_mem_replicate hp]
theorem witness_ResetEdgeAbandonsCommand :
    (⟨true, true, 0x20000000000000000, true⟩ : Pins).rst = true ∧ waiting.inFlight = some ⟨⟨.ok, 5⟩, 0⟩ ∧
      ∀ q ∈ [(⟨false, false, 0x20000000000000000, true⟩ : Pins)], q.rst = false ∧ q.cmdValid = false := by decide
theorem witness_InstancesShareNothing : [seeded 1, seeded 2][0]? = some (seeded 1) ∧ 1 ≠ 0 := by decide
theorem witness_SeedIgnoresArbitration :
    Interleaving [Instr.nextRaw, .nextBool] [Instr.nextFloat] [.nextRaw, .nextFloat, .nextBool] ∧
      (∀ i ∈ [Instr.nextRaw, .nextBool], i.isSeed = false) ∧ (∀ i ∈ [Instr.nextFloat], i.isSeed = false) ∧
      ({ seeded 1 with pending := presented [.nextRaw, .nextFloat, .nextBool] } : State).inFlight = none :=
  ⟨.left _ (.right _ (.left _ .done)), by decide, by decide, rfl⟩

/-- Two hosts on a block seeded with 42: host 0 wants a draw, host 1 a SEED 1. -/
def shared : SharedBlock := ⟨seeded 42, [[0x20000000000000000], [0x10000000000000001]], []⟩

/-- What the two hosts have been given after some picks. -/
def sharedResponses (picks : List Nat) : Option (List Response × List Response) :=
  match shared.grants picks with
  | .next sys => some (sys.responsesTo 0, sys.responsesTo 1)
  | .fault _ => none
  | .refused _ => none

/-- Host 1 is served first, so host 0 draws from SEED 1 (R65); an exhausted host's pick and one of no host change nothing. -/
theorem test_arbiter_routes_responses :
    sharedResponses [1, 1, 7, 0] = some ([⟨.ok, 0xa5ed98d1⟩], [⟨.ok, 0⟩]) := by decide +kernel
theorem witness_SharedBlockServesAnyHost :
    shared.block.inFlight = none ∧ shared.ports[0]? = some [0x20000000000000000] ∧
      shared.ports[1]? = some [0x10000000000000001] ∧ 0 ≠ 1 := by decide
/-- Both clauses: an interleaving of the two hosts' words, and picks that use them up. -/
theorem witness_ArbiterAdmitsExactlyInterleavings :
    shared.block.inFlight = none ∧
      Interleaving [(0x20000000000000000 : CommandWord)] [0x10000000000000001] [0x10000000000000001, 0x20000000000000000] ∧
      ∃ t, shared.grants [1, 0] = .next t ∧ t.ports = [[], []] :=
  ⟨rfl, .right _ (.left _ .done), _, rfl, rfl⟩

end Sys2Proof.Tests
end

/-! SUPPORT. The machine against the pure transition `(seed, command) → (seed', response)` of R8: the decoder reads an encoded
command back, each command's execution is its pure transition, and so is a step and a run. -/

namespace Sys2Proof

/-! ## The word of a command decodes to it (R42, R48) -/

/-- SEED's operand is the two operand fields read together (R26, R40). -/
theorem abField_encode_seed (ab : U64) : abField (encode (.seed ab)) = ab := by
  have h := ab.isLt
  apply BitVec.eq_of_toNat_eq
  simp only [abField, encode, Instr.bOperand, Instr.aOperand, BitVec.extractLsb'_toNat, packWord_toNat,
    Nat.shiftRight_eq_div_pow]
  omega

theorem decode_encode (i : Instr) : decode (encode i) = .instr i := by
  obtain ⟨hop, hb, ha⟩ := Laws.encodedFields_of_packWord i
  unfold decode
  rw [hop, hb, ha]
  cases i with
  | seed ab => simp [Instr.opcode, abField_encode_seed]
  | nextRaw => rfl
  | nextBool => rfl
  | nextIntU range => rfl
  | nextIntS a b => rfl
  | nextFloat => rfl
  | nextFloatAB a b => rfl

end Sys2Proof

namespace Sys2Proof.Machine

/-! ## The operand checks are the preconditions of R122 -/

theorem rangeOk_eq_accepted (range : U32) : rangeOk range = Instr.accepted (.nextIntU range) := by
  rw [Bool.eq_iff_iff]
  simp only [rangeOk, Instr.accepted, bne_iff_ne, decide_eq_true_eq]
  bv_omega

/-- R77's count as an integer: the size of `[a, b]` modulo 2^32. -/
theorem rangeCount_toNat (a b : U32) : ((rangeCount a b).toNat : Int) = (b.toInt - a.toInt + 1) % 2 ^ 32 := by
  have ha := BitVec.toInt_eq_toNat_cond a
  have hb := BitVec.toInt_eq_toNat_cond b
  have hone : (1 : U32).toNat = 1 := rfl
  simp only [rangeCount, BitVec.toNat_add, BitVec.toNat_sub, hone]
  omega

theorem boundsOk_eq_accepted (a b : U32) : boundsOk a b = Instr.accepted (.nextIntS a b) := by
  have hn := rangeCount_toNat a b
  have hzero : rangeCount a b = 0 ↔ (rangeCount a b).toNat = 0 := by bv_omega
  have ha := a.toInt_lt; have ha' := a.le_toInt
  have hb := b.toInt_lt; have hb' := b.le_toInt
  rw [Bool.eq_iff_iff]
  simp only [boundsOk, ltS32, Instr.accepted, Bool.and_eq_true, Bool.not_eq_true', BitVec.slt_eq_decide,
    decide_eq_false_iff_not, bne_iff_ne, ne_eq, hzero, decide_eq_true_eq]
  omega

/-! ## The results are those of the rules -/

theorem boolResult_eq_resultOf (raw : U32) : boolResult raw = resultOf .nextBool raw := by
  simp only [boolResult, resultOf, Config.boolBit]
  cases raw.getLsbD 2 <;> rfl

theorem intUResult_eq_resultOf (range raw : U32) : intUResult raw range = resultOf (.nextIntU range) raw := by
  apply BitVec.eq_of_toNat_eq
  have hle := Nat.mod_le raw.toNat range.toNat
  have hlt := raw.isLt
  simp only [intUResult, umod, resultOf, BitVec.toNat_umod, BitVec.toNat_ofNat]
  omega

/-- For accepted bounds the count does not wrap, so the pattern arithmetic of R77 is that of the integers. -/
theorem intSResult_eq_resultOf (a b raw : U32) (h : Instr.accepted (.nextIntS a b) = true) :
    intSResult raw a b = resultOf (.nextIntS a b) raw := by
  have hcount : ((rangeCount a b).toNat : Int) = b.toInt - a.toInt + 1 := by
    have hn := rangeCount_toNat a b
    have ha := a.toInt_lt; have ha' := a.le_toInt
    have hb := b.toInt_lt; have hb' := b.le_toInt
    simp only [Instr.accepted, decide_eq_true_eq] at h
    omega
  have hrem : BitVec.ofInt 32 ((raw.toNat : Int) % (b.toInt - a.toInt + 1)) = umod raw (rangeCount a b) := by
    rw [← hcount, umod, ← Int.natCast_emod, BitVec.ofInt_natCast, ← BitVec.toNat_umod, BitVec.ofNat_toNat,
      BitVec.setWidth_eq]
  rw [resultOf, BitVec.ofInt_add, hrem, BitVec.ofInt_toInt, BitVec.add_comm, intSResult]

/-! ## One command (R8) -/

/-- `t` is `s` after the pure transition of `i`: its new register, its response in flight, the host's side as it was. -/
def PureTransition (i : Instr) (s t : State) : Prop :=
  t.seed = seedAfter i s.seed ∧ t.inFlight = some ⟨responseOf i s.seed, 0⟩ ∧ hostSideKept s t

/-- A sampler is the pure transition of a command that draws and has the sampler's result. -/
theorem sample_pureTransition (i : Instr) (s : State) (result : U32 → U32) (hok : i.accepted = true)
    (hseed : seedAfter i s.seed = streamNext s.seed) (hres : ∀ raw, result raw = resultOf i raw) :
    PureTransition i s (s.sample result) := by
  refine ⟨?_, ?_, ?_⟩
  · simp [hseed]
  · simp [Response.okay, responseOf, hok, hres]
  · simp [hostSideKept]

/-- Ending in ERR_OPERAND is the pure transition of a command that is not accepted. -/
theorem raiseError_pureTransition (i : Instr) (s : State) (hbad : i.accepted = false)
    (hseed : seedAfter i s.seed = s.seed) : PureTransition i s (s.raiseError .errOperand) := by
  refine ⟨?_, ?_, ?_⟩
  · simp [hseed]
  · simp [Response.error, responseOf, hbad]
  · simp [hostSideKept]

theorem exec_pureTransition (i : Instr) (s : State) : ∃ t, exec i s = .next t ∧ PureTransition i s t := by
  cases i with
  | seed ab => exact ⟨_, rfl, rfl, rfl, rfl, rfl, rfl⟩
  | nextRaw => exact ⟨_, rfl, sample_pureTransition _ s _ rfl rfl fun _ => rfl⟩
  | nextBool => exact ⟨_, rfl, sample_pureTransition _ s _ rfl rfl boolResult_eq_resultOf⟩
  | nextIntU range =>
    simp only [exec, execNextIntU, rangeOk_eq_accepted]
    split
    · next hok =>
      exact ⟨_, rfl, sample_pureTransition _ s _ hok (if_pos hok) (intUResult_eq_resultOf range)⟩
    · next hbad => exact ⟨_, rfl, raiseError_pureTransition _ s (eq_false_of_ne_true hbad) (if_neg hbad)⟩
  | nextIntS a b =>
    simp only [exec, execNextIntS, boundsOk_eq_accepted]
    split
    · next hok =>
      exact ⟨_, rfl, sample_pureTransition _ s _ hok (if_pos hok) fun raw => intSResult_eq_resultOf a b raw hok⟩
    · next hbad => exact ⟨_, rfl, raiseError_pureTransition _ s (eq_false_of_ne_true hbad) (if_neg hbad)⟩
  | nextFloat => exact ⟨_, rfl, sample_pureTransition _ s _ rfl rfl fun _ => rfl⟩
  | nextFloatAB a b => exact ⟨_, rfl, sample_pureTransition _ s _ rfl rfl fun _ => rfl⟩

/-! ## One step and a run (R31) -/

theorem takeEvent_of_pending (s : State) (e : HostEvent) (es : List HostEvent) (h : s.pending = e :: es) :
    s.takeEvent = { s with pending := es } := by
  rw [State.takeEvent, h, List.tail_cons]

/-- An idle block's step on a word that decodes: the command runs on the state without the word, then its response is
delivered. -/
theorem step_decoded (w : CommandWord) (es : List HostEvent) (i : Instr) (s t : State) (idle : s.inFlight = none)
    (h : s.pending = .command w :: es) (hdec : decode w = .instr i)
    (hexec : exec i { s with pending := es } = .next t) : step s = .next t.deliver := by
  rw [step_command s w es h idle, takeEvent_of_pending s _ es h, transact, runWord_instr w i _ hdec, hexec, onNext_next]

/-- Delivery as one update, whether or not a response is in flight. -/
theorem deliver_eq (t : State) :
    t.deliver = { t with inFlight := none, responses := t.responses ++ t.answer.toList } := by
  cases h : t.inFlight with
  | none => rw [deliver_idle t h, State.answer, h, Option.map_none, Option.toList_none, List.append_nil, ← h]
  | some f => rw [deliver_answered t f h, State.answer, h, Option.map_some, Option.toList_some]

/-- An idle block's step on the word of a command is the command's pure transition, answered. -/
theorem step_encoded (i : Instr) (es : List HostEvent) (s : State) (idle : s.inFlight = none)
    (h : s.pending = .command (encode i) :: es) :
    ∃ t, step s = .next t ∧ t.seed = seedAfter i s.seed ∧ t.responses = s.responses ++ [responseOf i s.seed] ∧
      t.inFlight = none ∧ t.pending = es ∧ t.resetCount = s.resetCount := by
  obtain ⟨t, hexec, hseed, hflight, hpending, hresponses, hcount⟩ := exec_pureTransition i { s with pending := es }
  refine ⟨t.deliver, step_decoded _ es i s t idle h (decode_encode i) hexec, ?_, ?_, deliver_inFlight t, ?_, ?_⟩
  · rw [deliver_seed, hseed]
  · rw [deliver_responses, hresponses, State.answer, hflight]; rfl
  · rw [deliver_pending, hpending]
  · rw [deliver_resetCount, hcount]

/-- A run takes its first step and goes on from there. -/
theorem run_succ (M : Host.Core) (k : Nat) (s t : M.State) (h : M.step s = .next t) : M.run (k + 1) s = M.run k t := by
  rw [Host.Core.run, h]

/-- Settles O27. -/
theorem stepRunsTheDecodedCommand : Obligations.StepRunsTheDecodedCommand := by
  intro w es i s t idle h hdec hexec
  rw [step_decoded w es i s t idle h hdec hexec, deliver_eq]

/-- Settles O34, by induction on the commands presented, for every state. -/
theorem runFollowsPureTransitions : Obligations.RunFollowsPureTransitions := by
  intro is
  induction is with
  | nil =>
    intro s idle h
    exact ⟨s, rfl, rfl, (List.append_nil _).symm, idle, h, rfl⟩
  | cons i is ih =>
    intro s idle h
    obtain ⟨t, hstep, hseed, hresponses, hidle, hpending, hcount⟩ := step_encoded i (presented is) s idle h
    obtain ⟨u, hrun, useed, uresponses, uidle, upending, ucount⟩ := ih t hidle hpending
    refine ⟨u, ?_, ?_, ?_, uidle, upending, ucount.trans hcount⟩
    · rw [List.length_cons, run_succ Sys2Proof.core is.length s t hstep, hrun]
    · rw [useed, hseed]; rfl
    · rw [uresponses, hresponses, hseed, List.append_assoc]; rfl

end Sys2Proof.Machine

/-! SUPPORT. What a block's behaviour does not depend on: the part of the state beside `seed` (R16, R18), what came before a SEED
(R21), and the other instances of a system (R17). -/

namespace Sys2Proof.Machine

/-! ## Nothing but `seed` (R16, R18) -/

/-- After a pure transition the answer waiting is the command's response to the old register. -/
theorem PureTransition.answer {i : Instr} {s t : State} (h : PureTransition i s t) :
    t.answer = some (responseOf i s.seed) := by
  obtain ⟨-, hflight, -⟩ := h
  rw [State.answer, hflight, Option.map_some]

/-- Settles O25: both executions are the pure transition of `i`, which reads no field but `seed`. -/
theorem answerDependsOnSeedAlone : Obligations.AnswerDependsOnSeedAlone := by
  intro i s s' hseeds
  obtain ⟨t, hexec, htrans⟩ := exec_pureTransition i s
  obtain ⟨t', hexec', htrans'⟩ := exec_pureTransition i s'
  refine ⟨t, t', hexec, hexec', ?_, ?_⟩
  · rw [htrans.1, htrans'.1, hseeds]
  · rw [htrans.answer, htrans'.answer, hseeds]

/-! ## SEED forgets what came before (R21) -/

theorem seedAfterAll_seed_cons (v : U64) (is : List Instr) (x : U64) :
    seedAfterAll (.seed v :: is) x = seedAfterAll is v := rfl

/-- SEED's own response is the same in every state (R64), and so are all responses after it. -/
theorem responsesOf_seed_cons (v : U64) (is : List Instr) (x : U64) :
    responsesOf (.seed v :: is) x = ⟨.ok, 0⟩ :: responsesOf is v := rfl

/-- A run that begins with SEED v ends, and answers, as a function of `v` and the commands after it alone. -/
theorem run_seed_cons (v : U64) (is : List Instr) (s : State) (idle : s.inFlight = none)
    (h : s.pending = presented (.seed v :: is)) :
    ∃ t : State, Host.Core.run Sys2Proof.core (is.length + 1) s = .next t ∧ t.seed = seedAfterAll is v ∧
      t.responses = s.responses ++ ⟨.ok, 0⟩ :: responsesOf is v := by
  obtain ⟨t, hrun, hseed, hresponses, -⟩ := runFollowsPureTransitions (.seed v :: is) s idle h
  rw [seedAfterAll_seed_cons] at hseed
  rw [responsesOf_seed_cons] at hresponses
  exact ⟨t, hrun, hseed, hresponses⟩

/-- Settles O36: each of the two runs is the function of `v` and the later commands that `run_seed_cons` gives. -/
theorem seedRestartsTheStream : Obligations.SeedRestartsTheStream := by
  intro v is s s' idle idle' h h'
  obtain ⟨t, hrun, hseed, hresponses⟩ := run_seed_cons v is s idle h
  obtain ⟨t', hrun', hseed', hresponses'⟩ := run_seed_cons v is s' idle' h'
  exact ⟨t, t', _, hrun, hrun', hseed.trans hseed'.symm, hresponses, hresponses'⟩

/-! ## The other instances (R17) -/

/-- No state stops the block: of the four things a step can do, each has a next state (R120, R127). -/
theorem step_next (s : State) : ∃ t, step s = .next t := by
  obtain ⟨es, -, hreset⟩ | ⟨f, -, hdeliver⟩ | ⟨w, es, -, -, hcommand⟩ | ⟨-, -, hidle⟩ := step_cases s
  · exact ⟨_, hreset⟩
  · exact ⟨_, hdeliver⟩
  · obtain ⟨t, r, hrun, -⟩ := runWord_answers w s.takeEvent
    exact ⟨t.deliver, by rw [hcommand, transact, hrun, onNext_next]⟩
  · exact ⟨_, hidle⟩

theorem stepInstance_none (k : Nat) (system : List State) (h : system[k]? = none) :
    stepInstance k system = .next system := by
  rw [stepInstance, h]

theorem stepInstance_some (k : Nat) (system : List State) (s t : State) (h : system[k]? = some s)
    (hstep : step s = .next t) : stepInstance k system = .next (system.set k t) := by
  rw [stepInstance, h]
  simp only [hstep, onNext_next]

/-- Settles O57: the system's step is a `set` at the stepped block's own place, or nothing where no block stands. -/
theorem instancesShareNothing : Obligations.InstancesShareNothing := by
  intro k system
  cases h : system[k]? with
  | none => exact ⟨system, stepInstance_none k system h, rfl, fun _ _ => rfl, nofun⟩
  | some s =>
    obtain ⟨t, hstep⟩ := step_next s
    refine ⟨system.set k t, stepInstance_some k system s t h hstep, List.length_set, ?_, ?_⟩
    · intro j hj
      exact List.getElem?_set_ne (Ne.symm hj)
    · intro u hu
      obtain rfl := Option.some.inj hu
      have hk : k < system.length := (List.getElem?_eq_some_iff.mp h).1
      exact ⟨t, hstep, List.getElem?_set_self hk⟩

end Sys2Proof.Machine

/-! SUPPORT. The byte-wide transport (R26): the little-endian bytes of a number one by one, and the number they stand for. -/

namespace Sys2Proof

@[simp] theorem littleEndianBytes_length (n v : Nat) : (littleEndianBytes n v).length = n := by
  induction n generalizing v with
  | zero => rfl
  | succ n ih => rw [littleEndianBytes, List.length_cons, ih]

/-- Byte `k` of a number is the number without its lowest `8k` bits, cut to eight bits. -/
theorem littleEndianBytes_getElem? (n v k : Nat) (hk : k < n) :
    (littleEndianBytes n v)[k]? = some (BitVec.ofNat 8 (v >>> (8 * k))) := by
  induction n generalizing v k with
  | zero => omega
  | succ n ih =>
    cases k with
    | zero => rfl
    | succ k =>
      have hshift : v >>> (8 * (k + 1)) = (v / 256) >>> (8 * k) := by
        rw [Nat.mul_succ, Nat.add_comm, Nat.shiftRight_add, Nat.shiftRight_eq_div_pow v 8]
      rw [littleEndianBytes, List.getElem?_cons_succ, ih _ _ (by omega), hshift]

theorem littleEndianValue_bytes (n v : Nat) : littleEndianValue (littleEndianBytes n v) = v % 256 ^ n := by
  induction n generalizing v with
  | zero => simp [littleEndianBytes, littleEndianValue, Nat.mod_one]
  | succ n ih =>
    rw [littleEndianBytes, littleEndianValue, ih, BitVec.toNat_ofNat, Nat.pow_succ' (m := 256), Nat.mod_mul]

/-- Byte `k` of a vector's bytes carries bits `8k+7 : 8k`, with zeros above the vector's top bit. -/
theorem littleEndianBytes_toNat_getElem? {w : Nat} (n k : Nat) (x : BitVec w) (hk : k < n) :
    (littleEndianBytes n x.toNat)[k]? = some (x.extractLsb' (8 * k) 8) :=
  littleEndianBytes_getElem? n x.toNat k hk

theorem littleEndianValue_commandBytes (w : CommandWord) : littleEndianValue (commandBytes w) = w.toNat := by
  have hw := w.isLt
  rw [commandBytes, littleEndianValue_bytes]
  omega

@[simp] theorem commandBytes_length (w : CommandWord) : (commandBytes w).length = 9 :=
  littleEndianBytes_length 9 _

/-- Nine bytes laid out from a word are read back as that word, and what follows them is left over. -/
theorem wordOfBytes_commandBytes (w : CommandWord) (rest : List Byte) :
    wordOfBytes (commandBytes w ++ rest) = .ok (w, rest) := by
  have hlen : ¬(commandBytes w ++ rest).length < 9 := by simp
  have htake : (commandBytes w ++ rest).take 9 = commandBytes w := List.take_left' (commandBytes_length w)
  have hdrop : (commandBytes w ++ rest).drop 9 = rest := List.drop_left' (commandBytes_length w)
  rw [wordOfBytes, if_neg hlen, htake, hdrop, littleEndianValue_commandBytes, if_pos w.isLt, BitVec.ofNat_toNat,
    BitVec.setWidth_eq]

theorem decodeBytes_commandBytes (w : CommandWord) (rest : List Byte) :
    decodeBytes (commandBytes w ++ rest) = decode w := by
  rw [decodeBytes, wordOfBytes_commandBytes]

/-- Settles O8. -/
theorem byteTransportLayout : Obligations.ByteTransportLayout := by
  refine ⟨fun w => ⟨commandBytes_length w, ?_, decodeBytes_commandBytes w⟩, fun r => ⟨littleEndianBytes_length 5 _, ?_⟩⟩
  · intro k hk
    exact littleEndianBytes_toNat_getElem? 9 k w hk
  · intro k hk
    exact littleEndianBytes_toNat_getElem? 5 k r hk

end Sys2Proof

/-! SUPPORT. Several hosts on one block (R31, R32): without SEED only the count of draws matters for `seed`; a grant is one whole
transaction of the picked host; the arbiter's picks and the interleavings of the hosts' words are the same orders. -/

namespace Sys2Proof.Machine

/-! ## Commands without SEED (R66) -/

theorem draws_of_not_seed (i : Instr) (h : i.isSeed = false) : i.draws = if i.accepted then 1 else 0 := by
  rw [Instr.draws, h, Bool.not_false, Bool.and_true]

/-- Every command but SEED applies `T` once for each of its draws. -/
theorem seedAfter_of_not_seed (i : Instr) (x : U64) (h : i.isSeed = false) : seedAfter i x = streamAfter i.draws x := by
  cases i with
  | seed ab => cases h
  | nextRaw => rfl
  | nextBool => rfl
  | nextIntU range =>
    rw [draws_of_not_seed _ h, seedAfter]
    split <;> rfl
  | nextIntS a b =>
    rw [draws_of_not_seed _ h, seedAfter]
    split <;> rfl
  | nextFloat => rfl
  | nextFloatAB a b => rfl

theorem streamAfter_add (m n : Nat) (x : U64) : streamAfter (m + n) x = streamAfter n (streamAfter m x) := by
  rw [streamAfter, Nat.add_comm, Function.iterate_add_apply]; rfl

theorem seedAfterAll_of_no_seed (is : List Instr) (x : U64) (h : ∀ i ∈ is, i.isSeed = false) :
    seedAfterAll is x = streamAfter (is.map Instr.draws).sum x := by
  induction is generalizing x with
  | nil => rfl
  | cons i is ih =>
    obtain ⟨hi, his⟩ := List.forall_mem_cons.mp h
    calc seedAfterAll (i :: is) x
        = seedAfterAll is (seedAfter i x) := rfl
      _ = streamAfter (is.map Instr.draws).sum (streamAfter i.draws x) := by
          rw [ih _ his, seedAfter_of_not_seed i x hi]
      _ = streamAfter ((i :: is).map Instr.draws).sum x := by
          rw [← streamAfter_add, List.map_cons, List.sum_cons]

theorem Interleaving.perm {α : Type} {xs ys zs : List α} (h : Interleaving xs ys zs) : zs.Perm (xs ++ ys) := by
  induction h with
  | done => exact .refl _
  | left x _ ih => exact ih.cons x
  | right y _ ih => exact (ih.cons y).trans List.perm_middle.symm

/-- Settles O58: an arbiter permutes the commands, and the count of draws is a sum over them. -/
theorem seedIgnoresArbitration : Obligations.SeedIgnoresArbitration := by
  intro xs ys zs s hmerge hxs hys idle h
  have hzs : ∀ i ∈ zs, i.isSeed = false := fun i hi =>
    (List.mem_append.mp (hmerge.perm.mem_iff.mp hi)).elim (hxs i) (hys i)
  have hdraws : (zs.map Instr.draws).sum = (xs.map Instr.draws).sum + (ys.map Instr.draws).sum := by
    rw [(hmerge.perm.map Instr.draws).sum_eq, List.map_append, List.sum_append]
  obtain ⟨t, hrun, hseed, -⟩ := runFollowsPureTransitions zs s idle h
  exact ⟨t, hrun, by rw [hseed, seedAfterAll_of_no_seed zs _ hzs, hdraws]⟩

/-! ## One whole transaction (R31) -/

theorem runWord_hostSideKept (w : CommandWord) (s t : State) (h : runWord w s = .next t) : hostSideKept s t := by
  obtain ⟨u, r, hrun, -, hkept⟩ := runWord_answers w s
  rw [h] at hrun; cases hrun
  exact hkept

theorem transact_of_runWord (w : CommandWord) (s t : State) (h : runWord w s = .next t) :
    transact w s = .next t.deliver := by
  rw [transact, h, onNext_next]

/-- A transaction neither reads nor writes what the host presents next. -/
theorem transact_pending (w : CommandWord) (s t : State) (es : List HostEvent) (h : transact w s = .next t) :
    transact w { s with pending := es } = .next { t with pending := es } := by
  obtain ⟨u, r, hrun, -⟩ := runWord_answers w s
  rw [transact_of_runWord w s u hrun] at h; cases h
  rw [transact, runWord_pending, hrun, onNext_next, onNext_next, deliver_eq, deliver_eq]
  rfl

theorem transact_keeps_pending (w : CommandWord) (s t : State) (h : transact w s = .next t) : t.pending = s.pending := by
  obtain ⟨u, r, hrun, -, hpending, -⟩ := runWord_answers w s
  rw [transact_of_runWord w s u hrun] at h; cases h
  rw [deliver_pending, hpending]

/-- An idle block's step on a list of presented words is the first word's transaction. -/
theorem step_words (w : CommandWord) (es : List HostEvent) (s t : State) (idle : s.inFlight = none)
    (h : transact w s = .next t) :
    step { s with pending := .command w :: es } = .next { t with pending := es } := by
  rw [step_command { s with pending := .command w :: es } w es rfl idle,
    takeEvent_of_pending { s with pending := .command w :: es } _ es rfl]
  exact transact_pending w s t es h

theorem step_presentWord (w : CommandWord) (s t : State) (idle : s.inFlight = none) (h : transact w s = .next t) :
    step (s.presentWord w) = .next t := by
  have hstep := step_words w s.pending s t idle h
  have ht : ({ t with pending := s.pending } : State) = t := by rw [← transact_keeps_pending w s t h]
  rw [State.presentWord, ← idle, hstep, ht]

/-- `t` is `s` after one host has presented the words `ws` to it, in order; what `s` has pending is set aside. -/
def RunsWords (ws : List CommandWord) (s t : State) : Prop :=
  ∃ u : State, Host.Core.run Sys2Proof.core ws.length { s with pending := ws.map .command } = .next u ∧
    t = { u with pending := s.pending }

theorem RunsWords.nil (s : State) : RunsWords [] s s := ⟨_, rfl, rfl⟩

theorem RunsWords.cons {w : CommandWord} {ws : List CommandWord} {s m t : State} (idle : s.inFlight = none)
    (hw : transact w s = .next m) (h : RunsWords ws m t) : RunsWords (w :: ws) s t := by
  obtain ⟨u, hrun, ht⟩ := h
  refine ⟨u, ?_, by rw [ht, transact_keeps_pending w s m hw]⟩
  have hstep := step_words w (ws.map .command) s m idle hw
  exact (run_succ Sys2Proof.core ws.length _ _ hstep).trans hrun

/-! ## A grant is one whole transaction of the picked host (R31, R32) -/

/-- The system after a transaction of host `k` that leaves the block `t`, the host the words `ws`, and gives it `r`. -/
def SharedBlock.served (sys : SharedBlock) (k : Nat) (ws : List CommandWord) (t : State) (r : Response) : SharedBlock :=
  { block := t, ports := sys.ports.set k ws, delivered := sys.delivered ++ [(k, r)] }

theorem grant_served (sys : SharedBlock) (k : Nat) (w : CommandWord) (ws : List CommandWord)
    (idle : sys.block.inFlight = none) (h : sys.ports[k]? = some (w :: ws)) :
    ∃ t r, transact w sys.block = .next t ∧ t.inFlight = none ∧ t.responses = sys.block.responses ++ [r] ∧
      sys.grant k = .next (sys.served k ws t r) := by
  obtain ⟨u, r, hrun, hanswer, hgrant⟩ := grant_command sys k w ws idle h
  obtain ⟨-, hkept, -⟩ := runWord_hostSideKept w sys.block u hrun
  have hresponses : u.deliver.responses = sys.block.responses ++ [r] := by
    rw [deliver_responses, hkept, hanswer, Option.toList_some]
  exact ⟨u.deliver, r, transact_of_runWord w sys.block u hrun, deliver_inFlight u, hresponses, hgrant⟩

/-- All that a grant can do. -/
theorem grant_next_cases (sys sys' : SharedBlock) (k : Nat) (h : sys.grant k = .next sys') :
    sys' = sys ∨
    ∃ w ws t r, sys.block.inFlight = none ∧ sys.ports[k]? = some (w :: ws) ∧ transact w sys.block = .next t ∧
      t.responses = sys.block.responses ++ [r] ∧ sys' = sys.served k ws t r := by
  obtain hsame | ⟨w, ws, -, -, idle, hport, -⟩ := grant_cases sys k
  · rw [hsame] at h; cases h
    exact .inl rfl
  · obtain ⟨t, r, hw, -, hresponses, hgrant⟩ := grant_served sys k w ws idle hport
    rw [hgrant] at h; cases h
    exact .inr ⟨w, ws, t, r, idle, hport, hw, hresponses, rfl⟩

theorem responsesTo_served_self (sys : SharedBlock) (k : Nat) (ws : List CommandWord) (t : State) (r : Response) :
    (sys.served k ws t r).responsesTo k = sys.responsesTo k ++ [r] := by
  simp [SharedBlock.served, SharedBlock.responsesTo]

theorem responsesTo_served_ne (sys : SharedBlock) (k j : Nat) (ws : List CommandWord) (t : State) (r : Response)
    (hj : j ≠ k) : (sys.served k ws t r).responsesTo j = sys.responsesTo j := by
  simp [SharedBlock.served, SharedBlock.responsesTo, hj.symm]

theorem ports_served_self (sys : SharedBlock) (k : Nat) (ws vs : List CommandWord) (t : State) (r : Response)
    (h : sys.ports[k]? = some vs) : (sys.served k ws t r).ports[k]? = some ws :=
  List.getElem?_set_self (List.getElem?_eq_some_iff.mp h).1

theorem ports_served_ne (sys : SharedBlock) (k j : Nat) (ws : List CommandWord) (t : State) (r : Response)
    (hj : j ≠ k) : (sys.served k ws t r).ports[j]? = sys.ports[j]? :=
  List.getElem?_set_ne hj.symm

/-- Settles O59. -/
theorem sharedBlockServesAnyHost : Obligations.SharedBlockServesAnyHost := by
  intro sys k w ws idle hport
  obtain ⟨t, r, hw, hidle, hresponses, hgrant⟩ := grant_served sys k w ws idle hport
  exact ⟨sys.served k ws t r, r, .inl ⟨k, hgrant⟩, hgrant, step_presentWord w sys.block t idle hw, hidle, hresponses,
    ports_served_self sys k ws _ t r hport, responsesTo_served_self sys k ws t r,
    fun j hj => ⟨ports_served_ne sys k j ws t r hj, responsesTo_served_ne sys k j ws t r hj⟩⟩

/-! ## The arbiter's picks (R32) -/

theorem grants_cons (k : Nat) (ks : List Nat) (sys sys' : SharedBlock) (h : sys.grant k = .next sys') :
    sys.grants (k :: ks) = sys'.grants ks := by
  rw [SharedBlock.grants, h]

theorem grant_next (sys : SharedBlock) (k : Nat) : ∃ sys', sys.grant k = .next sys' := by
  obtain hsame | ⟨w, ws, t, r, -, -, -, -, hgrant⟩ := grant_cases sys k
  · exact ⟨sys, hsame⟩
  · exact ⟨_, hgrant⟩

/-- What every grant keeps, every sequence of picks keeps. -/
theorem grants_keep {P : SharedBlock → Prop}
    (hgrant : ∀ (k : Nat) (sys sys' : SharedBlock), sys.grant k = .next sys' → P sys → P sys')
    (picks : List Nat) (sys t : SharedBlock) (h : sys.grants picks = .next t) (hP : P sys) : P t := by
  induction picks generalizing sys with
  | nil => cases h; exact hP
  | cons k ks ih =>
    obtain ⟨sys', hk⟩ := grant_next sys k
    exact ih sys' ((grants_cons k ks sys sys' hk).symm.trans h) (hgrant k sys sys' hk hP)

/-- The block's responses since it held `rs` are those recorded as delivered, in the same order. -/
def SharedBlock.RecordsResponsesAfter (rs : List Response) (sys : SharedBlock) : Prop :=
  sys.block.responses = rs ++ sys.delivered.map Prod.snd

theorem grant_keeps_record (rs : List Response) (k : Nat) (sys sys' : SharedBlock) (h : sys.grant k = .next sys')
    (hrec : sys.RecordsResponsesAfter rs) : sys'.RecordsResponsesAfter rs := by
  obtain rfl | ⟨w, ws, t, r, -, -, -, hresponses, rfl⟩ := grant_next_cases sys sys' k h
  · exact hrec
  · calc t.responses
        = (rs ++ sys.delivered.map Prod.snd) ++ [r] := by rw [hresponses, hrec]
      _ = rs ++ (sys.delivered ++ [(k, r)]).map Prod.snd := by simp

/-- How many words host `j` has presented or still wants executed: its responses, and the words at its port. -/
def SharedBlock.wordCount (j : Nat) (sys : SharedBlock) : Nat :=
  (sys.responsesTo j).length + (sys.ports[j]?.getD []).length

theorem grant_keeps_wordCount (j n k : Nat) (sys sys' : SharedBlock) (h : sys.grant k = .next sys')
    (hcount : sys.wordCount j = n) : sys'.wordCount j = n := by
  obtain rfl | ⟨w, ws, t, r, -, hport, -, -, rfl⟩ := grant_next_cases sys sys' k h
  · exact hcount
  · rw [← hcount, SharedBlock.wordCount, SharedBlock.wordCount]
    by_cases hj : j = k
    · subst hj
      rw [responsesTo_served_self, ports_served_self sys j ws _ t r hport, hport]
      simp only [List.length_append, Option.getD_some, List.length_cons, List.length_nil]
      omega
    · rw [responsesTo_served_ne _ _ _ _ _ _ hj, ports_served_ne _ _ _ _ _ _ hj]

/-- A host whose words are used up has been given one response for each. -/
theorem responsesTo_length_of_grants (j : Nat) (picks : List Nat) (sys t : SharedBlock) (ws : List CommandWord)
    (h : sys.grants picks = .next t) (hport : sys.ports[j]? = some ws) (hempty : t.ports[j]? = some [])
    (hnone : sys.delivered = []) : (t.responsesTo j).length = ws.length := by
  have hcount := grants_keep (P := fun u => u.wordCount j = sys.wordCount j)
    (grant_keeps_wordCount j _) picks sys t h rfl
  simpa [SharedBlock.wordCount, SharedBlock.responsesTo, hport, hempty, hnone] using hcount

/-! ## Picks and interleavings of two hosts (R32) -/

/-- Every interleaving is the order of some picks: host 0 for a word of the first list, host 1 for one of the second. -/
theorem exists_grants_of_interleaving {xs ys zs : List CommandWord} (h : Interleaving xs ys zs) (s : State)
    (d : List (Nat × Response)) (idle : s.inFlight = none) :
    ∃ picks t, (SharedBlock.mk s [xs, ys] d).grants picks = .next t ∧ t.ports = [[], []] ∧ RunsWords zs s t.block := by
  induction h generalizing s d with
  | done => exact ⟨[], _, rfl, rfl, .nil s⟩
  | left w h ih =>
    obtain ⟨m, r, hw, hidle, -, hgrant⟩ := grant_served ⟨s, [w :: _, _], d⟩ 0 w _ idle rfl
    obtain ⟨picks, t, hpicks, hports, hruns⟩ := ih m (d ++ [(0, r)]) hidle
    exact ⟨0 :: picks, t, (grants_cons _ _ _ _ hgrant).trans hpicks, hports, hruns.cons idle hw⟩
  | right w h ih =>
    obtain ⟨m, r, hw, hidle, -, hgrant⟩ := grant_served ⟨s, [_, w :: _], d⟩ 1 w _ idle rfl
    obtain ⟨picks, t, hpicks, hports, hruns⟩ := ih m (d ++ [(1, r)]) hidle
    exact ⟨1 :: picks, t, (grants_cons _ _ _ _ hgrant).trans hpicks, hports, hruns.cons idle hw⟩

/-- Picks that use up both hosts' words have run an interleaving of them. -/
theorem exists_interleaving_of_grants (picks : List Nat) (xs ys : List CommandWord) (s : State)
    (d : List (Nat × Response)) (t : SharedBlock) (h : (SharedBlock.mk s [xs, ys] d).grants picks = .next t)
    (hports : t.ports = [[], []]) : ∃ zs, Interleaving xs ys zs ∧ RunsWords zs s t.block := by
  induction picks generalizing xs ys s d with
  | nil =>
    cases h; cases hports
    exact ⟨[], .done, .nil s⟩
  | cons k ks ih =>
    obtain ⟨sys', hk⟩ := grant_next ⟨s, [xs, ys], d⟩ k
    rw [grants_cons k ks _ sys' hk] at h
    obtain rfl | ⟨w, ws, m, r, idle, hport, hw, -, rfl⟩ := grant_next_cases _ _ _ hk
    · exact ih xs ys s d h
    · match k with
      | 0 =>
        obtain rfl : xs = w :: ws := Option.some.inj hport
        obtain ⟨zs, hmerge, hruns⟩ := ih ws ys m _ h
        exact ⟨w :: zs, .left w hmerge, hruns.cons idle hw⟩
      | 1 =>
        obtain rfl : ys = w :: ws := Option.some.inj hport
        obtain ⟨zs, hmerge, hruns⟩ := ih xs ws m _ h
        exact ⟨w :: zs, .right w hmerge, hruns.cons idle hw⟩
      | _ + 2 => cases hport

/-- Settles O60: each direction by induction on its order, and what every pick keeps of the record. -/
theorem arbiterAdmitsExactlyInterleavings : Obligations.ArbiterAdmitsExactlyInterleavings := by
  intro xs ys s idle
  refine ⟨fun zs hmerge => ?_, fun picks t hpicks hports => ⟨?_, ?_, ?_, ?_⟩⟩
  · obtain ⟨picks, t, hpicks, hports, u, hrun, hblock⟩ := exists_grants_of_interleaving hmerge s [] idle
    exact ⟨picks, t, u, hpicks, hports, hrun, hblock⟩
  · obtain ⟨zs, hmerge, u, hrun, hblock⟩ := exists_interleaving_of_grants picks xs ys s [] t hpicks hports
    exact ⟨zs, u, hmerge, hrun, hblock⟩
  · exact grants_keep (grant_keeps_record s.responses) picks _ t hpicks (List.append_nil _).symm
  · exact responsesTo_length_of_grants 0 picks _ t xs hpicks rfl (by rw [hports]; rfl) rfl
  · exact responsesTo_length_of_grants 1 picks _ t ys hpicks rfl (by rw [hports]; rfl) rfl

end Sys2Proof.Machine

/-! SUPPORT. The encoding of command words (R40 to R50): what each opcode decodes to, the word with its ignored operand bits
cleared, which is what encoding gives back and which tells words apart exactly as the decoder does, and the words as numbers
(R48). -/

namespace Sys2Proof

/-! ## What each opcode decodes to (R42, R50) -/

theorem decode_seed (w : CommandWord) (h : opField w = 1) : decode w = .instr (.seed (abField w)) := by
  rw [decode, h]; rfl

theorem decode_nextRaw (w : CommandWord) (h : opField w = 2) : decode w = .instr .nextRaw := by
  rw [decode, h]; rfl

theorem decode_nextBool (w : CommandWord) (h : opField w = 3) : decode w = .instr .nextBool := by
  rw [decode, h]; rfl

theorem decode_nextIntU (w : CommandWord) (h : opField w = 4) : decode w = .instr (.nextIntU (aField w)) := by
  rw [decode, h]; rfl

theorem decode_nextIntS (w : CommandWord) (h : opField w = 5) :
    decode w = .instr (.nextIntS (aField w) (bField w)) := by
  rw [decode, h]; rfl

theorem decode_nextFloat (w : CommandWord) (h : opField w = 6) : decode w = .instr .nextFloat := by
  rw [decode, h]; rfl

theorem decode_nextFloatAB (w : CommandWord) (h : opField w = 7) :
    decode w = .instr (.nextFloatAB (aField w) (bField w)) := by
  rw [decode, h]; rfl

/-- The opcodes that name no command (R42, R46). -/
def IsReservedOpcode (op : Opcode) : Prop := op = 0 ∨ 8 ≤ op.toNat

theorem opcode_cases (op : Opcode) :
    op = 1 ∨ op = 2 ∨ op = 3 ∨ op = 4 ∨ op = 5 ∨ op = 6 ∨ op = 7 ∨ IsReservedOpcode op := by
  unfold IsReservedOpcode
  bv_omega

theorem decode_reserved (w : CommandWord) (h : IsReservedOpcode (opField w)) :
    decode w = .rejected (.reservedOpcode (opField w)) := by
  have hrange : (opField w).toNat = 0 ∨ 8 ≤ (opField w).toNat := h.imp_left (congrArg BitVec.toNat)
  unfold decode
  split
  case h_8 => rfl
  all_goals omega

/-- Settles O2. -/
theorem decodeInvertsEncode : Obligations.DecodeInvertsEncode := fun i _ => decode_encode i

/-- Settles O3: `extractLsb 67 64` and its like are the fields of R40. -/
theorem decodeByOpcode : Obligations.DecodeByOpcode := fun w =>
  ⟨decode_seed w, decode_nextRaw w, decode_nextBool w, decode_nextIntU w, decode_nextIntS w, decode_nextFloat w,
    decode_nextFloatAB w, decode_reserved w⟩

/-- Settles O1. -/
theorem handWrittenWordsDecode : Obligations.HandWrittenWordsDecode := by
  refine ⟨?_, ?_, ?_, ?_, ?_, ?_, ?_, ?_, ?_⟩ <;> decide

/-! ## The two operand fields read together (R40) -/

theorem bField_eq_abField (w : CommandWord) : bField w = (abField w).extractLsb' 32 32 := by
  ext i hi
  simp [bField, abField]

theorem aField_eq_abField (w : CommandWord) : aField w = (abField w).extractLsb' 0 32 := by
  ext i hi
  simp [aField, abField]

theorem packWord_halves (op : Opcode) (x : U64) : packWord op (x.extractLsb' 32 32) (x.extractLsb' 0 32) = op ++ x := by
  have hx : x.extractLsb' 32 32 ++ x.extractLsb' 0 32 = x :=
    (BitVec.extractLsb'_append_extractLsb'_eq_extractLsb' rfl).trans BitVec.extractLsb'_eq_self
  calc packWord op (x.extractLsb' 32 32) (x.extractLsb' 0 32)
      = op ++ (x.extractLsb' 32 32 ++ x.extractLsb' 0 32) := BitVec.append_assoc
    _ = op ++ x := congrArg (op ++ ·) hx

/-! ## The word with its ignored operand bits cleared (R45) -/

/-- `w` with the operand bits its opcode does not use cleared. -/
def clearIgnored (w : CommandWord) : CommandWord :=
  opField w ++ (abField w &&& usedOperandBits (opField w))

theorem opField_clearIgnored (w : CommandWord) : opField (clearIgnored w) = opField w :=
  (BitVec.extractLsb'_append_eq_of_le (Nat.le_refl 64)).trans BitVec.extractLsb'_eq_self

theorem abField_clearIgnored (w : CommandWord) :
    abField (clearIgnored w) = abField w &&& usedOperandBits (opField w) :=
  (BitVec.extractLsb'_append_eq_of_add_le (Nat.le_refl 64)).trans BitVec.extractLsb'_eq_self

theorem clearIgnored_eq_iff (v w : CommandWord) :
    clearIgnored v = clearIgnored w ↔
      opField v = opField w ∧ abField v &&& usedOperandBits (opField v) = abField w &&& usedOperandBits (opField w) := by
  constructor
  · intro h
    rw [← abField_clearIgnored, ← abField_clearIgnored, ← opField_clearIgnored v, ← opField_clearIgnored w, h]
    exact ⟨rfl, rfl⟩
  · rintro ⟨hop, hab⟩
    rw [clearIgnored, clearIgnored, hab, hop]

theorem clearIgnored_eq_packWord (w : CommandWord) :
    clearIgnored w = packWord (opField w) (bField w &&& (usedOperandBits (opField w)).extractLsb' 32 32)
      (aField w &&& (usedOperandBits (opField w)).extractLsb' 0 32) := by
  rw [bField_eq_abField, aField_eq_abField, ← BitVec.extractLsb'_and, ← BitVec.extractLsb'_and, packWord_halves,
    clearIgnored]

/-- An opcode that uses all operand bits. -/
theorem clearIgnored_of_used_all (w : CommandWord) (h : usedOperandBits (opField w) = BitVec.allOnes 64) :
    clearIgnored w = packWord (opField w) (bField w) (aField w) := by
  rw [bField_eq_abField, aField_eq_abField, packWord_halves, clearIgnored, h, BitVec.and_allOnes]

/-- An opcode that uses the low 32 operand bits. -/
theorem clearIgnored_of_used_low (w : CommandWord) (h : usedOperandBits (opField w) = 0x00000000FFFFFFFF) :
    clearIgnored w = packWord (opField w) 0 (aField w) := by
  rw [clearIgnored_eq_packWord, h]
  exact congrArg₂ (packWord _) BitVec.and_zero BitVec.and_allOnes

/-- An opcode that uses no operand bits. -/
theorem clearIgnored_of_used_none (w : CommandWord) (h : usedOperandBits (opField w) = 0) :
    clearIgnored w = packWord (opField w) 0 0 := by
  rw [clearIgnored_eq_packWord, h]
  exact congrArg₂ (packWord _) BitVec.and_zero BitVec.and_zero

/-- All that decoding a word can answer: a command whose own word is `w` with the ignored bits cleared, or the rejection of a
reserved opcode. -/
theorem decode_cases (w : CommandWord) :
    (∃ i, decode w = .instr i ∧ encode i = clearIgnored w) ∨
    (IsReservedOpcode (opField w) ∧ decode w = .rejected (.reservedOpcode (opField w))) := by
  obtain hop | hop | hop | hop | hop | hop | hop | hop := opcode_cases (opField w)
  · refine .inl ⟨_, decode_seed w hop, ?_⟩
    rw [clearIgnored_of_used_all w (by rw [hop]; rfl), hop, bField_eq_abField, aField_eq_abField]; rfl
  · refine .inl ⟨_, decode_nextRaw w hop, ?_⟩
    rw [clearIgnored_of_used_none w (by rw [hop]; rfl), hop]; rfl
  · refine .inl ⟨_, decode_nextBool w hop, ?_⟩
    rw [clearIgnored_of_used_none w (by rw [hop]; rfl), hop]; rfl
  · refine .inl ⟨_, decode_nextIntU w hop, ?_⟩
    rw [clearIgnored_of_used_low w (by rw [hop]; rfl), hop]; rfl
  · refine .inl ⟨_, decode_nextIntS w hop, ?_⟩
    rw [clearIgnored_of_used_all w (by rw [hop]; rfl), hop]; rfl
  · refine .inl ⟨_, decode_nextFloat w hop, ?_⟩
    rw [clearIgnored_of_used_none w (by rw [hop]; rfl), hop]; rfl
  · refine .inl ⟨_, decode_nextFloatAB w hop, ?_⟩
    rw [clearIgnored_of_used_all w (by rw [hop]; rfl), hop]; rfl
  · exact .inr ⟨hop, decode_reserved w hop⟩

theorem encode_of_decode (w : CommandWord) (i : Instr) (h : decode w = .instr i) : encode i = clearIgnored w := by
  obtain ⟨j, hj, henc⟩ | ⟨-, hrej⟩ := decode_cases w
  · rw [h] at hj; cases hj
    exact henc
  · rw [h] at hrej; cases hrej

/-- Settles O5. -/
theorem encodeClearsIgnoredBits : Obligations.EncodeClearsIgnoredBits := by
  intro w i h
  rw [encode_of_decode w i h]
  exact ⟨opField_clearIgnored w, abField_clearIgnored w⟩

/-! ## Which words are the same command (R45, R46) -/

theorem usedOperandBits_reserved (op : Opcode) (h : IsReservedOpcode op) : usedOperandBits op = 0 := by
  have hrange : op.toNat = 0 ∨ 8 ≤ op.toNat := h.imp_left (congrArg BitVec.toNat)
  unfold usedOperandBits
  split
  case h_5 => rfl
  all_goals omega

theorem clearIgnored_reserved (w : CommandWord) (h : IsReservedOpcode (opField w)) :
    clearIgnored w = packWord (opField w) 0 0 :=
  clearIgnored_of_used_none w (usedOperandBits_reserved _ h)

/-- The decoder reads no ignored bit. -/
theorem decode_clearIgnored (w : CommandWord) : decode (clearIgnored w) = decode w := by
  obtain ⟨i, hdec, henc⟩ | ⟨hres, hrej⟩ := decode_cases w
  · rw [← henc, decode_encode, hdec]
  · have hop := opField_clearIgnored w
    rw [decode_reserved _ (hop ▸ hres), hop, hrej]

theorem clearIgnored_eq_of_decode_eq (v w : CommandWord) (h : decode v = decode w) :
    clearIgnored v = clearIgnored w := by
  obtain ⟨i, hi, henc⟩ | ⟨hv, hrejv⟩ := decode_cases v
  · rw [← henc, encode_of_decode w i (h.symm.trans hi)]
  · obtain ⟨j, hj, -⟩ | ⟨hw, hrejw⟩ := decode_cases w
    · rw [hrejv, hj] at h; cases h
    · rw [hrejv, hrejw] at h
      have hop : opField v = opField w := by injection h with h; injection h
      rw [clearIgnored_reserved v hv, clearIgnored_reserved w hw, hop]

theorem decode_eq_iff (v w : CommandWord) : decode v = decode w ↔ clearIgnored v = clearIgnored w := by
  refine ⟨clearIgnored_eq_of_decode_eq v w, fun h => ?_⟩
  rw [← decode_clearIgnored v, h, decode_clearIgnored]

/-- Settles O4. -/
theorem sameCommandIffUsedBitsAgree : Obligations.SameCommandIffUsedBitsAgree := fun v w =>
  (decode_eq_iff v w).trans (clearIgnored_eq_iff v w)

/-! ## Words as numbers (R48) -/

theorem encode_toNat (i : Instr) :
    (encode i).toNat = i.opcode.toNat * 2 ^ 64 + i.bOperand.toNat * 2 ^ 32 + i.aOperand.toNat :=
  packWord_toNat _ _ _

theorem encode_seed_toNat (ab : U64) : (encode (.seed ab)).toNat = 1 * 2 ^ 64 + ab.toNat := by
  have hab := ab.isLt
  rw [encode_toNat, Instr.bOperand, Instr.aOperand, BitVec.extractLsb'_toNat, BitVec.extractLsb'_toNat,
    Nat.shiftRight_eq_div_pow, Nat.shiftRight_zero, Instr.opcode]
  simp only [BitVec.reduceToNat]
  omega

/-- Settles O6. -/
theorem encodedWordLayout : Obligations.EncodedWordLayout := by
  refine ⟨encode_seed_toNat, ?_, ?_, fun range => ?_, fun a b => ?_, ?_, fun a b => ?_⟩
  all_goals simp [encode_toNat, Instr.opcode, Instr.bOperand, Instr.aOperand]

end Sys2Proof

/-! SUPPORT. The words at the block's two channels: the response word (R41), what the assembler's pseudo-instructions expand to
(R49), the one response to every word (R43, R46), and the handshake that carries it over clock edges (R150). -/

namespace Sys2Proof.Machine

/-! ## The response word (R41) -/

theorem word_resField (r : Response) : r.word.extractLsb 31 0 = r.res :=
  (BitVec.extractLsb'_append_eq_of_add_le (Nat.le_refl 32)).trans BitVec.extractLsb'_eq_self

theorem word_stField (r : Response) : r.word.extractLsb 33 32 = r.st.code :=
  (BitVec.extractLsb'_append_eq_of_le (Nat.le_refl 32)).trans BitVec.extractLsb'_eq_self

theorem Status.code_ne_three (st : Status) : st.code ≠ 3 := by
  cases st <;> decide

/-- Settles O7. -/
theorem responseWordLayout : Obligations.ResponseWordLayout := by
  intro r
  rw [word_stField]
  exact ⟨word_resField r, congrArg Status.code, congrArg Status.code, congrArg Status.code, r.st.code_ne_three⟩

/-! ## The pseudo-instructions (R49, R110) -/

theorem assemble_of_wellFormed (l : Asm) (h : l.wellFormed = true) : assemble l = some ((expandAsm l).map encode) :=
  if_pos h

/-- Sign extension keeps the value of an integer that fits the narrow width. -/
theorem signExtend_ofInt_of_fits (v : Int) (hlo : -2147483648 ≤ v) (hhi : v < 2147483648) :
    (BitVec.ofInt 32 v).signExtend 64 = BitVec.ofInt 64 v :=
  congrArg (BitVec.ofInt 64) (BitVec.toInt_ofInt_eq_self (by decide) hlo hhi)

theorem assemble_seed32 (v : Int) (hlo : -2147483648 ≤ v) (hhi : v < 2147483648) :
    assemble (.seed32 (.dec v)) = some [encode (.seed (BitVec.ofInt 64 v))] := by
  have hwf : (Asm.seed32 (.dec v)).wellFormed = true := decide_eq_true ⟨hlo, hhi⟩
  rw [assemble_of_wellFormed _ hwf, expandAsm, literalBits, signExtend_ofInt_of_fits v hlo hhi, List.map_singleton]

theorem shuffleCommandsFrom_length (i : Nat) : (shuffleCommandsFrom i).length = i := by
  induction i with
  | zero => rfl
  | succ i ih => rw [shuffleCommandsFrom, List.length_cons, ih]

/-- The commands count down from the index the host's loop starts at. -/
theorem shuffleCommandsFrom_getElem? (i k : Nat) (hk : k < i) :
    (shuffleCommandsFrom i)[k]? = some (shuffleCommand (i - k)) := by
  induction i generalizing k with
  | zero => omega
  | succ i ih =>
    cases k with
    | zero => rfl
    | succ k => rw [shuffleCommandsFrom, List.getElem?_cons_succ, ih k (by omega), Nat.add_sub_add_right]

theorem assemble_randomShuffle (seq : String) (n : Nat) (hn : n ≤ 4294967295) :
    assemble (.randomShuffle seq (.dec n)) = some ((shuffleCommands n).map encode) := by
  have hwf : (Asm.randomShuffle seq (.dec n)).wellFormed = true := by
    rw [Asm.wellFormed, Literal.fitsUnsigned, decide_eq_true_eq]
    omega
  have hbits : (literalBits 32 (.dec n)).toNat = n := by
    rw [literalBits, BitVec.ofInt_natCast, BitVec.toNat_ofNat, Nat.mod_eq_of_lt (by omega)]
  rw [assemble_of_wellFormed _ hwf, expandAsm, hbits]

/-- Settles O9. -/
theorem pseudoInstructionsExpand : Obligations.PseudoInstructionsExpand := by
  refine ⟨assemble_seed32, fun seq n hn => ⟨_, assemble_randomShuffle seq n hn, ?_, fun k hk => ?_⟩⟩
  · rw [List.length_map, shuffleCommands, shuffleCommandsFrom_length]
  · have hindex : n - 1 - k + 1 = n - k := by omega
    rw [List.getElem?_map, shuffleCommands, shuffleCommandsFrom_getElem? _ k hk, shuffleCommand, hindex, Option.map_some]

/-! ## Every word is answered once (R43, R46, R120) -/

theorem runWord_reserved (w : CommandWord) (s : State) (h : IsReservedOpcode (opField w)) :
    runWord w s = .next (s.raiseError .errIllegalCmd) :=
  runWord_rejected w _ s (decode_reserved w h)

/-- Settles O22. -/
theorem reservedOpcodeAnswersIllegal : Obligations.ReservedOpcodeAnswersIllegal := fun w s h =>
  ⟨_, runWord_reserved w s h, State.raiseError_seed s _, State.raiseError_answer s _, rfl, rfl, rfl, rfl⟩

/-- Settles O28. -/
theorem everyWordGetsOneResponse : Obligations.EveryWordGetsOneResponse := by
  intro w es s idle h
  obtain ⟨t, r, hrun, hflight, hpending, hresponses, hcount⟩ := runWord_answers w s.takeEvent
  have hanswer : t.answer = some r := by rw [State.answer, hflight, Option.map_some]
  refine ⟨t.deliver, r, ?_, ?_, deliver_inFlight t, ?_, ?_, fun hres => ?_⟩
  · rw [step_command s w es h idle, transact_of_runWord w _ t hrun]
  · rw [deliver_responses, hresponses, hanswer, State.takeEvent_responses, Option.toList_some]
  · rw [deliver_pending, hpending, State.takeEvent_pending, h, List.tail_cons]
  · rw [deliver_resetCount, hcount, State.takeEvent_resetCount]
  · rw [runWord_reserved w _ hres] at hrun
    cases hrun; cases hflight
    exact ⟨deliver_seed _, rfl⟩

/-! ## The handshake over clock edges (R43, R150) -/

/-- The state `s` with the response `r` in flight and `n` cycles to go before the block presents it. -/
def State.answering (s : State) (r : Response) (n : Nat) : State := { s with inFlight := some ⟨r, n⟩ }

theorem answering_of_inFlight (s : State) (r : Response) (n : Nat) (h : s.inFlight = some ⟨r, n⟩) :
    s.answering r n = s := by
  rw [State.answering, ← h]

theorem answering_not_cmdReady (s : State) (r : Response) (n : Nat) : cmdReady (s.answering r n) false = false := rfl

theorem answering_zero_rspValid (s : State) (r : Response) : rspValid (s.answering r 0) false = true := rfl

theorem answering_zero_rspBus (s : State) (r : Response) : rspBus (s.answering r 0) false = some r.word := rfl

theorem answering_succ_rspValid (s : State) (r : Response) (n : Nat) : rspValid (s.answering r (n + 1)) false = false := rfl

theorem answering_succ_rspBus (s : State) (r : Response) (n : Nat) : rspBus (s.answering r (n + 1)) false = none := rfl

theorem clockEdges_cons (p : Pins) (ps : List Pins) (s t : State) (h : clockEdge p s = .next t) :
    clockEdges (p :: ps) s = clockEdges ps t := by
  rw [clockEdges, h]

theorem clockEdges_append (ps qs : List Pins) (s t : State) (h : clockEdges ps s = .next t) :
    clockEdges (ps ++ qs) s = clockEdges qs t := by
  induction ps generalizing s with
  | nil => cases h; rfl
  | cons p ps ih =>
    rw [clockEdges] at h
    split at h
    · next u hu => exact (clockEdges_cons p (ps ++ qs) s u hu).trans (ih u h)
    · cases h
    · cases h

/-- The edge that accepts a word leaves its response waiting for the rest of its latency. -/
theorem clockEdge_accept_answering (p : Pins) (s u : State) (r : Response) (h : p.rst = false) (idle : s.inFlight = none)
    (hv : p.cmdValid = true) (hrun : runWord p.cmd s = .next u) (hflight : u.inFlight = some ⟨r, 0⟩) :
    clockEdge p s = .next (u.answering r (Config.latency (opField p.cmd) - 1)) := by
  rw [clockEdge_accept p s h idle hv, hrun, onNext_next, State.startLatency, hflight]
  rfl

/-- Edges during the latency only count it down. -/
theorem clockEdges_wait (ps : List Pins) (s : State) (r : Response) (n : Nat) (hrst : ∀ p ∈ ps, p.rst = false) :
    clockEdges ps (s.answering r (ps.length + n)) = .next (s.answering r n) := by
  induction ps with
  | nil => rw [List.length_nil, Nat.zero_add]; rfl
  | cons p ps ih =>
    obtain ⟨hp, hps⟩ := List.forall_mem_cons.mp hrst
    have hedge : clockEdge p (s.answering r (ps.length + n + 1)) = .next (s.answering r (ps.length + n)) :=
      clockEdge_wait p _ r _ hp rfl
    rw [List.length_cons, Nat.add_right_comm, clockEdges_cons p ps _ _ hedge, ih hps]

/-- A presented response is held while the host is not ready. -/
theorem clockEdges_hold (ps : List Pins) (s : State) (r : Response)
    (h : ∀ p ∈ ps, p.rst = false ∧ p.rspReady = false) :
    clockEdges ps (s.answering r 0) = .next (s.answering r 0) := by
  induction ps with
  | nil => rfl
  | cons p ps ih =>
    obtain ⟨⟨hrst, hready⟩, hps⟩ := List.forall_mem_cons.mp h
    rw [clockEdges_cons p ps _ _ (clockEdge_hold p _ r hrst hready rfl), ih hps]

/-- Settles O55: the accepting edge does what the word does, the latency counts down to the response, holding keeps it, and the
last edge delivers it, as the step does. -/
theorem edgesDoWhatAStepDoes : Obligations.EdgesDoWhatAStepDoes := by
  intro s a d waits holds idle harst hvalid hlen hwaits hholds hdrst hdready
  obtain ⟨u, r, hrun, hflight, -, hresponses, -⟩ := runWord_answers a.cmd s
  have hm : u.answering r 0 = u := answering_of_inFlight u r 0 hflight
  have haccept : clockEdge a s = .next (u.answering r waits.length) := by
    rw [hlen]
    exact clockEdge_accept_answering a s u r harst idle hvalid hrun hflight
  have hwait : clockEdges (a :: waits) s = .next (u.answering r 0) := by
    rw [clockEdges_cons a waits s _ haccept]
    exact clockEdges_wait waits u r 0 hwaits
  have hhold (k : Nat) : clockEdges (a :: (waits ++ holds.take k)) s = .next (u.answering r 0) := by
    rw [← List.cons_append, clockEdges_append _ _ s _ hwait]
    exact clockEdges_hold _ u r fun p hp => hholds p (List.mem_of_mem_take hp)
  refine ⟨u.deliver, u.answering r 0, r, ?_, ?_, ?_, fun k _ => hhold k, answering_not_cmdReady u r 0,
    answering_zero_rspValid u r, rfl, answering_zero_rspBus u r, fun k hk => ?_⟩
  · exact step_presentWord a.cmd s u.deliver idle (transact_of_runWord a.cmd s u hrun)
  · have hdeliver : clockEdge d (u.answering r 0) = .next u.deliver := by
      rw [clockEdge_deliver d _ r hdrst hdready rfl, hm]
    rw [← List.cons_append, clockEdges_append _ _ s _ hwait,
      clockEdges_append holds [d] _ _ (clockEdges_hold holds u r hholds), clockEdges_cons d [] _ _ hdeliver, clockEdges]
  · rw [deliver_responses, hresponses, State.answer, hflight]; rfl
  · obtain ⟨n, hn⟩ : ∃ n, waits.length = k + (n + 1) := ⟨waits.length - k - 1, by omega⟩
    have htake : (waits.take k).length = k := List.length_take_of_le hk.le
    refine ⟨u.answering r (n + 1), ?_, answering_not_cmdReady u r _, answering_succ_rspValid u r n,
      answering_succ_rspBus u r n⟩
    rw [clockEdges_cons a _ s _ haccept, hn]
    have hcount := clockEdges_wait (waits.take k) u r (n + 1) fun p hp => hwaits p (List.mem_of_mem_take hp)
    rwa [htake] at hcount

end Sys2Proof.Machine

/-! SUPPORT. The engine (R60 to R67): the transition as an affine map and its inverse, the window of the state that the
extractor shows, the two commands that reach the engine directly, and the stream of draws after a SEED. -/

namespace Sys2Proof.Machine

/-! ## The transition (R60, R67) -/

theorem multiplier_mul_inverse : Config.multiplier * Config.multiplierInverse = 1 := by decide

theorem untransition_transition (x : U64) : untransition (transition x) = x := by
  calc (Config.addend + Config.multiplier * x - Config.addend) * Config.multiplierInverse
      = Config.multiplier * Config.multiplierInverse * x := by rw [add_sub_cancel_left, mul_right_comm]
    _ = x := by rw [multiplier_mul_inverse, one_mul]

theorem transition_untransition (x : U64) : transition (untransition x) = x := by
  calc Config.addend + Config.multiplier * ((x - Config.addend) * Config.multiplierInverse)
      = Config.addend + (x - Config.addend) * (Config.multiplier * Config.multiplierInverse) := by rw [mul_left_comm]
    _ = x := by rw [multiplier_mul_inverse, mul_one, add_sub_cancel]

/-- Settles O10. -/
theorem transitionIsAffine : Obligations.TransitionIsAffine := by
  intro x
  have hA : Config.addend.toNat = 0xd737232eeccdf7ed := rfl
  have hM : Config.multiplier.toNat = 0x9b60933458e17d7d := rfl
  rw [transition, BitVec.toNat_add, BitVec.toNat_mul, hA, hM, Nat.add_mod_mod, Nat.add_comm, Nat.mul_comm]

/-! ## The extractor's window (R61, R62) -/

/-- The subtraction of R61 does not go below zero. -/
theorem shiftAmount_add_shiftSelector (x : U64) : shiftAmount x + shiftSelector x = 29 :=
  Nat.sub_add_cancel ((shiftSelector_le x).trans (by decide))

theorem shiftAmount_bounds (x : U64) : 22 ≤ shiftAmount x ∧ shiftAmount x ≤ 29 := by
  have hsum := shiftAmount_add_shiftSelector x
  have hle := shiftSelector_le x
  omega

/-- Settles O11. -/
theorem shiftAmountFromTopBits : Obligations.ShiftAmountFromTopBits := by
  refine ⟨fun x => ⟨?_, shiftAmount_bounds x⟩, fun _ => rfl⟩
  rw [← shiftSelector_eq, shiftAmount_add_shiftSelector]

theorem streamValue_getLsbD (x : U64) (i : Nat) (hi : i < 32) :
    (streamValue x).getLsbD i = x.getLsbD (29 - (x.extractLsb 63 61).toNat + i) := by
  rw [streamValue, BitVec.getLsbD_setWidth, BitVec.getLsbD_ushiftRight, decide_eq_true hi, Bool.true_and]

/-- Settles O12. -/
theorem extractorWindow : Obligations.ExtractorWindow := by
  intro x
  rw [extract_eq_streamValue]
  exact ⟨rfl, streamValue_getLsbD x⟩

/-- States that agree from bit `m` up agree from every later bit up. -/
theorem ushiftRight_congr_of_le {x y : U64} {m n : Nat} (h : x >>> m = y >>> m) (hmn : m ≤ n) :
    x >>> n = y >>> n := by
  rw [← Nat.add_sub_cancel' hmn, BitVec.shiftRight_add, BitVec.shiftRight_add, h]

/-- Settles O13: the selector starts at bit 61 and the window at bit 22 or above. -/
theorem lowBitsNeverReachADraw : Obligations.LowBitsNeverReachADraw := by
  intro x y h
  have hselector : shiftSelector x = shiftSelector y :=
    congrArg BitVec.toNat (ushiftRight_congr_of_le h (by decide))
  have hshift : shiftAmount x = shiftAmount y := congrArg (Config.shiftBase - ·) hselector
  rw [extract, extract, hshift, ushiftRight_congr_of_le h (shiftAmount_bounds y).1]

/-! ## Every draw is possible (R65) -/

/-- A state that shows `r`: the selector is 0, so the window is bits 60 to 29. -/
def stateShowing (r : U32) : U64 := r.setWidth 64 <<< 29

theorem stateShowing_toNat (r : U32) : (stateShowing r).toNat = r.toNat * 2 ^ 29 := by
  have hr := r.isLt
  simp only [stateShowing, BitVec.toNat_shiftLeft, BitVec.toNat_setWidth, Nat.shiftLeft_eq]
  omega

theorem shiftAmount_stateShowing (r : U32) : shiftAmount (stateShowing r) = 29 := by
  have hr := r.isLt
  have hselector : shiftSelector (stateShowing r) = 0 := by
    rw [shiftSelector, Config.shiftSelectorLsb, BitVec.toNat_ushiftRight, stateShowing_toNat, Nat.shiftRight_eq_div_pow]
    omega
  rw [shiftAmount, hselector, Config.shiftBase]

theorem extract_stateShowing (r : U32) : extract (stateShowing r) = r := by
  have hr := r.isLt
  apply BitVec.eq_of_toNat_eq
  rw [extract, shiftAmount_stateShowing, BitVec.toNat_setWidth, BitVec.toNat_ushiftRight, stateShowing_toNat,
    Nat.shiftRight_eq_div_pow]
  omega

/-- Settles O14. -/
theorem transitionIsBijective : Obligations.TransitionIsBijective :=
  ⟨fun x => ⟨untransition_transition x, transition_untransition x⟩,
    fun r => ⟨untransition (stateShowing r), by rw [transition_untransition, extract_stateShowing]⟩⟩

/-! ## SEED and NEXTRAW (R64, R65) -/

/-- The cast of R64. -/
theorem toNat_ofInt_eq_emod (v : Int) : ((BitVec.ofInt 64 v).toNat : Int) = v % 2 ^ 64 := by
  rw [BitVec.toNat_ofInt]
  omega

/-- A command's execution is its pure transition, and every word that decodes to the command does the same. -/
theorem exec_and_words (i : Instr) (s : State) :
    ∃ t, exec i s = .next t ∧ (∀ w : CommandWord, decode w = .instr i → runWord w s = .next t) ∧
      t.seed = seedAfter i s.seed ∧ t.answer = some (responseOf i s.seed) ∧ hostSideKept s t := by
  obtain ⟨t, hexec, htrans⟩ := exec_pureTransition i s
  have hanswer := htrans.answer
  obtain ⟨hseed, -, hkept⟩ := htrans
  exact ⟨t, hexec, fun w hdec => (runWord_instr w i s hdec).trans hexec, hseed, hanswer, hkept⟩

/-- Settles O15. -/
theorem seedInstallsOperand : Obligations.SeedInstallsOperand := by
  refine ⟨fun ab s => ?_, fun v s => ⟨_, rfl, toNat_ofInt_eq_emod v⟩⟩
  obtain ⟨t, hexec, hwords, hkeeps⟩ := exec_and_words (.seed ab) s
  refine ⟨t, hexec, fun w hop hab => hwords w ?_, hkeeps⟩
  subst hab
  exact decode_seed w hop

/-- Settles O16. -/
theorem nextRawAnswersDraw : Obligations.NextRawAnswersDraw := by
  intro s
  obtain ⟨t, hexec, hwords, hkeeps⟩ := exec_and_words .nextRaw s
  exact ⟨t, hexec, fun w hop => hwords w (decode_nextRaw w hop), hkeeps⟩

/-! ## The stream after SEED (R66) -/

theorem streamNext_streamAfter (n : Nat) (x : U64) : streamNext (streamAfter n x) = streamAfter (n + 1) x :=
  (streamAfter_add n 1 x).symm

theorem responseOf_accepted (i : Instr) (x : U64) (h : i.accepted = true) :
    responseOf i x = ⟨.ok, resultOf i (streamValue (streamNext x))⟩ :=
  if_pos h

theorem responsesOf_length (is : List Instr) (x : U64) : (responsesOf is x).length = is.length := by
  induction is generalizing x with
  | nil => rfl
  | cons i is ih => rw [responsesOf, List.length_cons, List.length_cons, ih]

/-- Each command is answered on the register that the commands before it leave. -/
theorem responsesOf_getElem? (is : List Instr) (x : U64) (k : Nat) :
    (responsesOf is x)[k]? = is[k]?.map fun i => responseOf i (seedAfterAll (is.take k) x) := by
  induction is generalizing x k with
  | nil => rfl
  | cons i is ih =>
    cases k with
    | zero => rfl
    | succ k => rw [responsesOf, List.getElem?_cons_succ, ih]; rfl

/-- Settles O35: without another SEED the register counts the draws before a command, and a successful one is answered on the
next draw of the stream. -/
theorem streamProperty : Obligations.StreamProperty := by
  intro v is s idle h hnoseed
  obtain ⟨t, hrun, hseed, hresponses⟩ := run_seed_cons v is s idle h
  refine ⟨t, _, hrun, hseed.trans (seedAfterAll_of_no_seed is v hnoseed), hresponses, responsesOf_length is v, ?_⟩
  intro k i hi hok
  have hbefore := seedAfterAll_of_no_seed (is.take k) v fun j hj => hnoseed j (List.mem_of_mem_take hj)
  rw [responsesOf_getElem?, hi, Option.map_some, hbefore, responseOf_accepted i _ hok, streamNext_streamAfter]

end Sys2Proof.Machine

/-! SUPPORT. The integer samplers (R75 to R80): the bit NEXTBOOL shows, the operand checks and what a command that fails them
leaves, the results on integers, and how many draws give each remainder. -/

namespace Sys2Proof.Machine

/-! ## The register after a command that is accepted, and after one that is not (R66, R80, R120) -/

theorem not_isSeed_of_rejected (i : Instr) (h : i.accepted = false) : i.isSeed = false := by
  cases i with
  | seed ab => cases h
  | _ => rfl

/-- An accepted sampler draws once. -/
theorem seedAfter_accepted (i : Instr) (x : U64) (hsampler : i.isSeed = false) (h : i.accepted = true) :
    seedAfter i x = streamNext x := by
  rw [seedAfter_of_not_seed i x hsampler, draws_of_not_seed i hsampler, if_pos h]; rfl

/-- A command whose operands fail their checks does not draw. -/
theorem seedAfter_rejected (i : Instr) (x : U64) (h : i.accepted = false) : seedAfter i x = x := by
  have hsampler := not_isSeed_of_rejected i h
  rw [seedAfter_of_not_seed i x hsampler, draws_of_not_seed i hsampler, h]; rfl

theorem responseOf_rejected (i : Instr) (x : U64) (h : i.accepted = false) : responseOf i x = ⟨.errOperand, 0⟩ := by
  rw [responseOf, h]; rfl

/-- Settles O24: the failed command leaves `seed`, and nothing else of the state matters to the command after it. -/
theorem failedCommandLeavesNoTrace : Obligations.FailedCommandLeavesNoTrace := by
  intro i s hbad
  obtain ⟨t, hexec, -, hseed, hanswer, -⟩ := exec_and_words i s
  have hkept : t.seed = s.seed := hseed.trans (seedAfter_rejected i s.seed hbad)
  refine ⟨t, hexec, hkept, hanswer.trans (congrArg some (responseOf_rejected i s.seed hbad)), fun j => ?_⟩
  obtain ⟨u', u, hexec', hexecu, hseeds, hanswers⟩ :=
    answerDependsOnSeedAlone j t.deliver s ((deliver_seed t).trans hkept)
  exact ⟨u, u', hexecu, hexec', hseeds, hanswers⟩

/-! ## NEXTBOOL (R75) -/

/-- Bit 2 is the bit of weight 4. -/
theorem getLsbD_two_iff (raw : U32) : raw.getLsbD 2 = true ↔ raw.toNat / 4 % 2 = 1 := by
  rw [BitVec.getLsbD, Nat.testBit_eq_decide_div_mod_eq, decide_eq_true_eq]

theorem resultOf_nextBool (raw : U32) : resultOf .nextBool raw = if raw.toNat / 4 % 2 = 1 then 1 else 0 :=
  if_congr (getLsbD_two_iff raw) rfl rfl

/-- Settles O17. -/
theorem nextBoolAnswersBitTwo : Obligations.NextBoolAnswersBitTwo := by
  intro s
  obtain ⟨t, hexec, hwords, hseed, hanswer, hkept⟩ := exec_and_words .nextBool s
  refine ⟨t, hexec, fun w hop => hwords w (decode_nextBool w hop), hseed, ?_, hkept⟩
  rw [hanswer, responseOf_accepted .nextBool _ rfl, resultOf_nextBool]

/-! ## NEXTINT_U (R76) -/

theorem accepted_nextIntU (range : U32) (h : range ≠ 0) : Instr.accepted (.nextIntU range) = true := by
  rw [← rangeOk_eq_accepted, rangeOk, bne_iff_ne]
  exact h

/-- The result is the unsigned remainder, as a number. -/
theorem intUResult_toNat (raw range : U32) : (intUResult raw range).toNat = raw.toNat % range.toNat :=
  BitVec.toNat_umod

/-- Settles O18. -/
theorem nextIntUAnswersRemainder : Obligations.NextIntUAnswersRemainder := by
  intro range s
  obtain ⟨t, hexec, hwords, hseed, hanswer, hkept⟩ := exec_and_words (.nextIntU range) s
  refine ⟨t, hexec, fun w hop ha => hwords w ?_, hkept, fun hrange => ?_, fun hzero => ?_⟩
  · subst ha
    exact decode_nextIntU w hop
  · have hok := accepted_nextIntU range hrange
    have hres := intUResult_toNat (streamValue (streamNext s.seed)) range
    refine ⟨hseed.trans (seedAfter_accepted _ _ rfl hok), _, ?_, hres, ?_⟩
    · rw [hanswer, responseOf_accepted _ _ hok, intUResult_eq_resultOf]
    · rw [hres]
      exact Nat.mod_lt _ (Nat.pos_of_ne_zero fun hzero => hrange (BitVec.eq_of_toNat_eq hzero))
  · subst hzero
    exact ⟨hseed.trans (seedAfter_rejected _ _ rfl), hanswer.trans (congrArg some (responseOf_rejected _ _ rfl))⟩

/-! ## NEXTINT_S (R77) -/

theorem accepted_nextIntS (a b : U32) (hab : a.toInt ≤ b.toInt)
    (hfull : ¬(a.toInt = -2147483648 ∧ b.toInt = 2147483647)) : Instr.accepted (.nextIntS a b) = true :=
  decide_eq_true ⟨hab, hfull⟩

theorem rejected_nextIntS (a b : U32) (h : b.toInt < a.toInt ∨ (a.toInt = -2147483648 ∧ b.toInt = 2147483647)) :
    Instr.accepted (.nextIntS a b) = false :=
  decide_eq_false fun ⟨hab, hfull⟩ => h.elim hab.not_gt hfull

/-- For `a ≤ b` the integer `a + raw mod (b - a + 1)` lies in `[a, b]`. -/
theorem add_emod_mem_Icc (a b raw : Int) (h : a ≤ b) : a + raw % (b - a + 1) ∈ Set.Icc a b := by
  have hlo := Int.emod_nonneg raw (show b - a + 1 ≠ 0 by omega)
  have hhi := Int.emod_lt_of_pos raw (show 0 < b - a + 1 by omega)
  constructor <;> omega

/-- The sum of R77 does not overflow, so its signed reading is the integer `a + r`. -/
theorem resultOf_nextIntS_toInt (a b raw : U32) (h : a.toInt ≤ b.toInt) :
    (resultOf (.nextIntS a b) raw).toInt = a.toInt + (raw.toNat : Int) % (b.toInt - a.toInt + 1) := by
  obtain ⟨hlo, hhi⟩ := add_emod_mem_Icc a.toInt b.toInt raw.toNat h
  exact BitVec.toInt_ofInt_eq_self (by decide) (a.le_toInt.trans hlo) (hhi.trans_lt b.toInt_lt)

/-- Settles O19. -/
theorem nextIntSAnswersInRange : Obligations.NextIntSAnswersInRange := by
  intro a b s
  obtain ⟨t, hexec, hwords, hseed, hanswer, hkept⟩ := exec_and_words (.nextIntS a b) s
  refine ⟨t, hexec, fun w hop ha hb => hwords w ?_, hkept, fun hab hfull => ?_, fun hbad => ?_⟩
  · subst ha hb
    exact decode_nextIntS w hop
  · have hok := accepted_nextIntS a b hab hfull
    have hres := resultOf_nextIntS_toInt a b (streamValue (streamNext s.seed)) hab
    refine ⟨hseed.trans (seedAfter_accepted _ _ rfl hok), _, ?_, hres, ?_⟩
    · rw [hanswer, responseOf_accepted _ _ hok]
    · rw [hres]
      exact add_emod_mem_Icc _ _ _ hab
  · have hrej := rejected_nextIntS a b hbad
    exact ⟨hseed.trans (seedAfter_rejected _ _ hrej), hanswer.trans (congrArg some (responseOf_rejected _ _ hrej))⟩

/-! ## The bias of the remainder (R79) -/

/-- Counting the words whose number has a property is counting numbers below `2^w`. -/
theorem card_filter_toNat (w : Nat) (p : Nat → Prop) [DecidablePred p] :
    (Finset.univ.filter fun x : BitVec w => p x.toNat).card = Nat.count p (2 ^ w) := by
  rw [Nat.count_eq_card_filter_range]
  refine Finset.card_nbij BitVec.toNat (fun x hx => ?_) (fun x _ y _ => BitVec.eq_of_toNat_eq) fun n hn => ?_
  · obtain ⟨-, hp⟩ := Finset.mem_filter.mp hx
    exact Finset.mem_filter.mpr ⟨Finset.mem_range.mpr x.isLt, hp⟩
  · obtain ⟨hlt, hp⟩ := Finset.mem_filter.mp hn
    have hnum : (BitVec.ofNat w n).toNat = n :=
      (BitVec.toNat_ofNat n w).trans (Nat.mod_eq_of_lt (Finset.mem_range.mp hlt))
    exact ⟨BitVec.ofNat w n, Finset.mem_filter.mpr ⟨Finset.mem_univ _, hnum.symm ▸ hp⟩, hnum⟩

/-- A remainder below the range is given by the draws congruent to it. -/
theorem intUResult_eq_iff_modEq (raw m k : U32) (h : k.toNat < m.toNat) :
    intUResult raw m = k ↔ raw.toNat ≡ k.toNat [MOD m.toNat] := by
  rw [← BitVec.toNat_inj, intUResult_toNat, Nat.ModEq, Nat.mod_eq_of_lt h]

/-- Settles O39: the draws that give `k` are the numbers below `2^32` congruent to `k`. -/
theorem moduloBiasCount : Obligations.ModuloBiasCount := by
  intro m k hk
  simp only [intUResult_eq_iff_modEq _ m k hk]
  rw [card_filter_toNat 32 (· ≡ k.toNat [MOD m.toNat]), Nat.count_modEq_card _ (Nat.zero_lt_of_lt hk),
    Nat.mod_eq_of_lt hk]

end Sys2Proof.Machine

/-! SUPPORT. The binary32 format (R92): the fields of a pattern as parts of its number, the pattern with given fields, the
value of a pattern as sign, significand and scale, and how far values of a given scale lie apart. -/

namespace Sys2Proof.Machine

/-! ## The fields of a pattern (R92) -/

theorem f32Sign_eq_decide (w : U32) : f32Sign w = decide (2 ^ 31 ≤ w.toNat) := BitVec.msb_eq_decide w

theorem f32Exponent_eq_mod (w : U32) : f32Exponent w = w.toNat / 2 ^ 23 % 256 := by
  rw [f32Exponent, BitVec.extractLsb'_toNat, Nat.shiftRight_eq_div_pow]

theorem f32Fraction_eq_mod (w : U32) : f32Fraction w = w.toNat % 2 ^ 23 := by
  rw [f32Fraction, BitVec.extractLsb'_toNat, Nat.shiftRight_zero]

theorem f32Exponent_le (w : U32) : f32Exponent w ≤ 255 := Nat.le_of_lt_succ (BitVec.isLt _)

theorem f32Fraction_lt (w : U32) : f32Fraction w < 2 ^ 23 := BitVec.isLt _

theorem getLsbD_zero_eq (w : U32) : w.getLsbD 0 = decide (f32Fraction w % 2 = 1) := by
  rw [f32Fraction_eq_mod, Nat.mod_mod_of_dvd _ (⟨2 ^ 22, rfl⟩ : 2 ∣ 2 ^ 23), BitVec.getLsbD, Nat.testBit_zero]

theorem packF32_toNat (neg : Bool) (E F : Nat) :
    (packF32 neg E F).toNat = neg.toNat * 2 ^ 31 + E % 2 ^ 8 * 2 ^ 23 + F % 2 ^ 23 := by
  have hE : E % 2 ^ 8 < 2 ^ 8 := Nat.mod_lt _ (by decide)
  have hF : F % 2 ^ 23 < 2 ^ 23 := Nat.mod_lt _ (by decide)
  rw [packF32, BitVec.toNat_append, BitVec.toNat_append, BitVec.toNat_ofBool, BitVec.toNat_ofNat, BitVec.toNat_ofNat,
    ← Nat.shiftLeft_add_eq_or_of_lt hF, ← Nat.shiftLeft_add_eq_or_of_lt hE]
  simp only [Nat.shiftLeft_eq]
  ring

@[simp] theorem f32Sign_packF32 (neg : Bool) (E F : Nat) : f32Sign (packF32 neg E F) = neg := by
  rw [f32Sign_eq_decide, packF32_toNat]
  cases neg <;> simp <;> omega

@[simp] theorem f32Exponent_packF32 (neg : Bool) (E F : Nat) : f32Exponent (packF32 neg E F) = E % 2 ^ 8 := by
  rw [f32Exponent_eq_mod, packF32_toNat]
  cases neg <;> simp <;> omega

@[simp] theorem f32Fraction_packF32 (neg : Bool) (E F : Nat) : f32Fraction (packF32 neg E F) = F % 2 ^ 23 := by
  rw [f32Fraction_eq_mod, packF32_toNat]
  omega

/-- A pattern is its three fields. -/
theorem f32_ext {x y : U32} (hsign : f32Sign x = f32Sign y) (hexp : f32Exponent x = f32Exponent y)
    (hfrac : f32Fraction x = f32Fraction y) : x = y := by
  have hx := x.isLt; have hy := y.isLt
  rw [f32Sign_eq_decide, f32Sign_eq_decide, decide_eq_decide] at hsign
  rw [f32Exponent_eq_mod, f32Exponent_eq_mod] at hexp
  rw [f32Fraction_eq_mod, f32Fraction_eq_mod] at hfrac
  apply BitVec.eq_of_toNat_eq
  omega

/-! ## Inverting bit 31, and the integer subtraction of R93 -/

@[simp] theorem f32Sign_negate (w : U32) : f32Sign (f32Negate w) = !f32Sign w := by
  simp [f32Negate, f32Sign]

@[simp] theorem f32Exponent_negate (w : U32) : f32Exponent (f32Negate w) = f32Exponent w := by
  rw [f32Negate, f32Exponent, BitVec.extractLsb'_xor]
  simp [f32Exponent]

@[simp] theorem f32Fraction_negate (w : U32) : f32Fraction (f32Negate w) = f32Fraction w := by
  rw [f32Negate, f32Fraction, BitVec.extractLsb'_xor]
  simp [f32Fraction]

/-- Subtracting the constant takes 32 from the exponent field and borrows nothing from the sign (R93). -/
theorem f32Fields_sub_adjustment (w : U32) (h : 32 ≤ f32Exponent w) :
    f32Sign (w - Config.floatAdjustment) = f32Sign w ∧
      f32Exponent (w - Config.floatAdjustment) = f32Exponent w - 32 ∧
      f32Fraction (w - Config.floatAdjustment) = f32Fraction w := by
  have hw := w.isLt
  have hadj : Config.floatAdjustment.toNat = 32 * 2 ^ 23 := rfl
  rw [f32Exponent_eq_mod] at h
  have hsub : (w - Config.floatAdjustment).toNat = w.toNat - 32 * 2 ^ 23 := by
    rw [BitVec.toNat_sub, hadj]
    omega
  simp only [f32Sign_eq_decide, f32Exponent_eq_mod, f32Fraction_eq_mod, hsub, decide_eq_decide]
  omega

/-! ## The classes of a pattern (R92) -/

theorem f32IsFinite_iff (w : U32) : f32IsFinite w = true ↔ f32Exponent w ≠ 255 := bne_iff_ne

theorem f32IsNaN_iff (w : U32) : f32IsNaN w = true ↔ f32Exponent w = 255 ∧ f32Fraction w ≠ 0 := by
  rw [f32IsNaN, Bool.and_eq_true, beq_iff_eq, bne_iff_ne]

theorem f32IsInf_iff (w : U32) : f32IsInf w = true ↔ f32Exponent w = 255 ∧ f32Fraction w = 0 := by
  rw [f32IsInf, Bool.and_eq_true, beq_iff_eq, beq_iff_eq]

theorem f32IsZero_iff (w : U32) : f32IsZero w = true ↔ f32Exponent w = 0 ∧ f32Fraction w = 0 := by
  rw [f32IsZero, Bool.and_eq_true, beq_iff_eq, beq_iff_eq]

theorem not_isNaN_of_finite {w : U32} (h : f32IsFinite w = true) : f32IsNaN w = false :=
  Bool.eq_false_iff.mpr fun hnan => (f32IsFinite_iff w).mp h ((f32IsNaN_iff w).mp hnan).1

theorem not_isInf_of_finite {w : U32} (h : f32IsFinite w = true) : f32IsInf w = false :=
  Bool.eq_false_iff.mpr fun hinf => (f32IsFinite_iff w).mp h ((f32IsInf_iff w).mp hinf).1

theorem not_isNaN_of_inf {w : U32} (h : f32IsInf w = true) : f32IsNaN w = false :=
  Bool.eq_false_iff.mpr fun hnan => ((f32IsNaN_iff w).mp hnan).2 ((f32IsInf_iff w).mp h).2

theorem not_isZero_of_inf {w : U32} (h : f32IsInf w = true) : f32IsZero w = false :=
  Bool.eq_false_iff.mpr fun hzero =>
    absurd (((f32IsInf_iff w).mp h).1.symm.trans ((f32IsZero_iff w).mp hzero).1) (by decide)

@[simp] theorem f32IsInf_f32Inf (neg : Bool) : f32IsInf (f32Inf neg) = true := by
  cases neg <;> decide

@[simp] theorem f32IsFinite_negate (w : U32) : f32IsFinite (f32Negate w) = f32IsFinite w := by
  rw [f32IsFinite, f32IsFinite, f32Exponent_negate]

@[simp] theorem f32IsNaN_negate (w : U32) : f32IsNaN (f32Negate w) = f32IsNaN w := by
  rw [f32IsNaN, f32IsNaN, f32Exponent_negate, f32Fraction_negate]

@[simp] theorem f32IsInf_negate (w : U32) : f32IsInf (f32Negate w) = f32IsInf w := by
  rw [f32IsInf, f32IsInf, f32Exponent_negate, f32Fraction_negate]

/-! ## The value of a pattern (R92) -/

/-- `(-1)^sign`. -/
def signFactor (neg : Bool) : ℚ := if neg then -1 else 1

@[simp] theorem signFactor_false : signFactor false = 1 := rfl
@[simp] theorem signFactor_true : signFactor true = -1 := rfl

theorem signFactor_not (neg : Bool) : signFactor (!neg) = -signFactor neg := by
  cases neg <;> simp

theorem signFactor_bne (a b : Bool) : signFactor (a != b) = signFactor a * signFactor b := by
  cases a <;> cases b <;> simp

theorem abs_signFactor_mul (neg : Bool) (x : ℚ) : |signFactor neg * x| = |x| := by
  cases neg <;> simp

/-- The table of R92, in the significand and the scale the operations compute with. -/
theorem f32Value_eq (w : U32) : f32Value w = signFactor (f32Sign w) * f32Significand w * 2 ^ f32Scale w := by
  have htable : f32Value w =
      if f32Exponent w = 0 then signFactor (f32Sign w) * f32Fraction w * 2 ^ (-149 : Int)
      else signFactor (f32Sign w) * (2 ^ 23 + f32Fraction w) * 2 ^ ((f32Exponent w : Int) - 150) := rfl
  rw [htable, f32Significand, f32Scale]
  by_cases h : f32Exponent w = 0
  · simp only [if_pos h]
  · simp only [if_neg h, Nat.cast_add, Nat.cast_pow, Nat.cast_ofNat]

/-- The value of a pattern whose sign, significand and scale are known. -/
theorem f32Value_of_parts {w : U32} (neg : Bool) (m : Nat) (p : Int) (hsign : f32Sign w = neg)
    (hsig : f32Significand w = m) (hscale : f32Scale w = p) : f32Value w = signFactor neg * m * 2 ^ p := by
  rw [f32Value_eq, hsign, hsig, hscale]

theorem f32Significand_lt (w : U32) : f32Significand w < 2 ^ 24 := by
  have := f32Fraction_lt w
  unfold f32Significand
  split <;> omega

theorem f32Scale_ge (w : U32) : -149 ≤ f32Scale w := by
  unfold f32Scale
  split <;> omega

theorem f32Scale_le (w : U32) (h : f32IsFinite w = true) : f32Scale w ≤ 104 := by
  have hexp := (f32IsFinite_iff w).mp h
  have := f32Exponent_le w
  unfold f32Scale
  split <;> omega

/-- Above the least scale the significand has its leading bit. -/
theorem f32Significand_ge (w : U32) (h : -149 < f32Scale w) : 2 ^ 23 ≤ f32Significand w := by
  unfold f32Scale at h
  unfold f32Significand
  split at h <;> simp_all

theorem abs_f32Value (w : U32) : |f32Value w| = f32Significand w * 2 ^ f32Scale w := by
  rw [f32Value_eq, mul_assoc, abs_signFactor_mul, abs_of_nonneg (by positivity)]

@[simp] theorem f32Value_negate (w : U32) : f32Value (f32Negate w) = -f32Value w := by
  have hsig : f32Significand (f32Negate w) = f32Significand w := by simp [f32Significand]
  have hscale : f32Scale (f32Negate w) = f32Scale w := by simp [f32Scale]
  rw [f32Value_eq, f32Value_eq, hsig, hscale, f32Sign_negate, signFactor_not]
  ring

theorem f32Value_nonneg_of_sign {w : U32} (h : f32Sign w = false) : 0 ≤ f32Value w := by
  rw [f32Value_eq, h, signFactor_false]
  positivity

theorem f32Value_nonpos_of_sign {w : U32} (h : f32Sign w = true) : f32Value w ≤ 0 := by
  rw [f32Value_eq, h, signFactor_true, mul_assoc, neg_one_mul]
  exact neg_nonpos.mpr (by positivity)

/-- A value other than zero shows the sign bit. -/
theorem f32Sign_eq_decide_neg {w : U32} (h : f32Value w ≠ 0) : f32Sign w = decide (f32Value w < 0) := by
  cases hsign : f32Sign w with
  | false => exact (decide_eq_false (f32Value_nonneg_of_sign hsign).not_gt).symm
  | true => exact (decide_eq_true ((f32Value_nonpos_of_sign hsign).lt_of_ne h)).symm

theorem f32Value_zero : f32Value 0 = 0 := by
  rw [f32Value_of_parts false 0 (-149) rfl rfl rfl, Nat.cast_zero, mul_zero, zero_mul]

theorem f32Value_negative_zero : f32Value 0x80000000 = 0 := by
  rw [f32Value_of_parts true 0 (-149) rfl rfl rfl, Nat.cast_zero, mul_zero, zero_mul]

/-- Only the two zeros have the value 0. -/
theorem f32Value_eq_zero_iff (w : U32) : f32Value w = 0 ↔ w = 0 ∨ w = 0x80000000 := by
  constructor
  · intro h
    have hmag : (f32Significand w : ℚ) * 2 ^ f32Scale w = 0 := by rw [← abs_f32Value, h, abs_zero]
    have hsig : f32Significand w = 0 := by
      have h2 : (2 : ℚ) ^ f32Scale w ≠ 0 := by positivity
      exact_mod_cast (mul_eq_zero.mp hmag).resolve_right h2
    obtain ⟨hexp, hfrac⟩ : f32Exponent w = 0 ∧ f32Fraction w = 0 := by
      unfold f32Significand at hsig
      split at hsig <;> omega
    cases hsign : f32Sign w with
    | false => exact .inl (f32_ext hsign hexp hfrac)
    | true => exact .inr (f32_ext hsign hexp hfrac)
  · rintro (rfl | rfl)
    · exact f32Value_zero
    · exact f32Value_negative_zero

theorem f32Value_signed_zero (neg : Bool) : f32Value (packF32 neg 0 0) = 0 := by
  cases neg with
  | false => exact f32Value_zero
  | true => exact f32Value_negative_zero

theorem f32IsFinite_signed_zero (neg : Bool) : f32IsFinite (packF32 neg 0 0) = true := by
  rw [f32IsFinite_iff, f32Exponent_packF32]
  decide

/-- The values from `2^(G+23)` on are multiples of `2^G`; of a grid no finer than the finest, all are. -/
theorem f32Value_on_grid_or_below (w : U32) (G : Int) :
    (∃ m : Int, f32Value w = m * 2 ^ G) ∨ (-149 < G ∧ |f32Value w| < 2 ^ (G + 23)) := by
  have hscale := f32Scale_ge w
  rcases le_or_gt G (f32Scale w) with hle | hlt
  · left
    obtain ⟨d, hd⟩ := Int.eq_ofNat_of_zero_le (sub_nonneg.mpr hle)
    have hsplit : (2 : ℚ) ^ f32Scale w = 2 ^ d * 2 ^ G := by
      rw [← zpow_natCast, ← zpow_add₀ two_ne_zero, ← hd]
      congr 1; omega
    rcases hsign : f32Sign w with _ | _
    · refine ⟨f32Significand w * 2 ^ d, ?_⟩
      rw [f32Value_eq, hsign, hsplit]
      push_cast [signFactor_false]; ring
    · refine ⟨-(f32Significand w * 2 ^ d), ?_⟩
      rw [f32Value_eq, hsign, hsplit]
      push_cast [signFactor_true]; ring
  · right
    refine ⟨by omega, ?_⟩
    have hsig : (f32Significand w : ℚ) < 2 ^ 24 := by exact_mod_cast f32Significand_lt w
    calc |f32Value w| = f32Significand w * 2 ^ f32Scale w := abs_f32Value w
      _ < 2 ^ 24 * 2 ^ f32Scale w := by gcongr
      _ = 2 ^ (f32Scale w + 24) := by rw [zpow_add₀ two_ne_zero, mul_comm]; norm_cast
      _ ≤ 2 ^ (G + 23) := zpow_le_zpow_right₀ one_le_two (by omega)

/-- A magnitude fixes the scale: on a greater scale the leading bit of the significand makes the magnitude greater. -/
theorem f32Scale_le_of_abs_eq {x y : U32} (h : |f32Value x| = |f32Value y|) : f32Scale x ≤ f32Scale y := by
  by_contra! hlt
  have hsx : (2 : ℚ) ^ 23 ≤ f32Significand x := by
    exact_mod_cast f32Significand_ge x ((f32Scale_ge y).trans_lt hlt)
  have hsy : (f32Significand y : ℚ) < 2 ^ 24 := by exact_mod_cast f32Significand_lt y
  have hcontra : |f32Value y| < |f32Value x| := calc
    |f32Value y| = f32Significand y * 2 ^ f32Scale y := abs_f32Value y
    _ < 2 ^ 24 * 2 ^ f32Scale y := by gcongr
    _ = 2 ^ 23 * 2 ^ (f32Scale y + 1) := by rw [zpow_add₀ two_ne_zero]; ring
    _ ≤ 2 ^ 23 * 2 ^ f32Scale x := by
      gcongr
      · exact one_le_two
      · omega
    _ ≤ f32Significand x * 2 ^ f32Scale x := by gcongr
    _ = |f32Value x| := (abs_f32Value x).symm
  exact hcontra.ne' h

/-- Values other than zero have one pattern each. -/
theorem f32Value_injective {x y : U32} (h : f32Value x = f32Value y) (hne : f32Value y ≠ 0) : x = y := by
  have habs : |f32Value x| = |f32Value y| := congrArg _ h
  have hscale : f32Scale x = f32Scale y := (f32Scale_le_of_abs_eq habs).antisymm (f32Scale_le_of_abs_eq habs.symm)
  have hsig : f32Significand x = f32Significand y := by
    have h2 : (2 : ℚ) ^ f32Scale y ≠ 0 := by positivity
    rw [abs_f32Value, abs_f32Value, hscale] at habs
    exact_mod_cast mul_right_cancel₀ h2 habs
  have hsign : f32Sign x = f32Sign y := by
    rw [f32Sign_eq_decide_neg (h ▸ hne), f32Sign_eq_decide_neg hne, h]
  have hx := f32Fraction_lt x; have hy := f32Fraction_lt y
  unfold f32Scale at hscale
  unfold f32Significand at hsig
  obtain ⟨hexp, hfrac⟩ : f32Exponent x = f32Exponent y ∧ f32Fraction x = f32Fraction y := by grind
  exact f32_ext hsign hexp hfrac

end Sys2Proof.Machine

/-! SUPPORT. Rounding to nearest, ties to even (R90, R91): the rounded integer significand, the pattern assembled from it, and
why a value rounded on its own binade's grid is the nearest of all binary32 values. -/

namespace Sys2Proof.Machine

/-! ## The nearest integer (R90, R91) -/

/-- `n` is the integer nearest to `x`, an even one when `x` lies halfway. -/
structure IsNearestEven (n : Nat) (x : ℚ) : Prop where
  half : |n - x| ≤ 1 / 2
  even : |n - x| = 1 / 2 → n % 2 = 0

theorem IsNearestEven.le_of_le {n N : Nat} {x : ℚ} (h : IsNearestEven n x) (hx : x ≤ N) : n ≤ N := by
  have hupper : (n : ℚ) < N + 1 := by linarith only [(abs_le.mp h.half).2, hx]
  exact Nat.le_of_lt_succ (by exact_mod_cast hupper)

theorem IsNearestEven.ge_of_ge {n N : Nat} {x : ℚ} (h : IsNearestEven n x) (hx : N ≤ x) : N ≤ n := by
  have hlower : (N : ℚ) < n + 1 := by linarith only [(abs_le.mp h.half).1, hx]
  exact Nat.le_of_lt_succ (by exact_mod_cast hlower)

/-- Twice the rounding error is at most `2^k`, and `2^k` only for an even result. -/
theorem roundHalfEven_bounds (m k : Nat) :
    2 * m ≤ 2 * (roundHalfEven m k * 2 ^ k) + 2 ^ k ∧ 2 * (roundHalfEven m k * 2 ^ k) ≤ 2 * m + 2 ^ k ∧
      (2 * m = 2 * (roundHalfEven m k * 2 ^ k) + 2 ^ k ∨ 2 * (roundHalfEven m k * 2 ^ k) = 2 * m + 2 ^ k →
        roundHalfEven m k % 2 = 0) := by
  have hdiv := Nat.div_add_mod' m (2 ^ k)
  have hrem : m % 2 ^ k < 2 ^ k := Nat.mod_lt _ (by positivity)
  unfold roundHalfEven
  simp only
  split
  · rw [Nat.add_mul, Nat.one_mul]
    omega
  · omega

theorem roundHalfEven_isNearestEven (m k : Nat) : IsNearestEven (roundHalfEven m k) (m / 2 ^ k) := by
  obtain ⟨hup, hdown, htie⟩ := roundHalfEven_bounds m k
  generalize roundHalfEven m k = n at *
  have hpos : (0 : ℚ) < 2 ^ k := by positivity
  have hup' : 2 * (m : ℚ) ≤ 2 * (n * 2 ^ k) + 2 ^ k := by exact_mod_cast hup
  have hdown' : 2 * (n * 2 ^ k) ≤ 2 * (m : ℚ) + 2 ^ k := by exact_mod_cast hdown
  have hscale : (n - m / 2 ^ k : ℚ) = (n * 2 ^ k - m) / 2 ^ k := by field_simp
  constructor
  · rw [hscale, abs_div, abs_of_pos hpos, div_le_iff₀ hpos, abs_le]
    constructor <;> linarith only [hup', hdown']
  · rw [hscale, abs_div, abs_of_pos hpos, div_eq_iff hpos.ne']
    intro heq
    refine htie ?_
    rcases abs_cases (n * 2 ^ k - m : ℚ) with ⟨habs, -⟩ | ⟨habs, -⟩
    · right
      have : 2 * (n * 2 ^ k) = 2 * (m : ℚ) + 2 ^ k := by linarith only [habs, heq]
      exact_mod_cast this
    · left
      have : 2 * (m : ℚ) = 2 * (n * 2 ^ k) + 2 ^ k := by linarith only [habs, heq]
      exact_mod_cast this

theorem roundScaled_isNearestEven (m : Nat) (sh : Int) : IsNearestEven (roundScaled m sh) (m / 2 ^ sh) := by
  unfold roundScaled
  split
  case isTrue h =>
    obtain ⟨d, rfl⟩ := Int.exists_eq_neg_ofNat h
    have hexact : ((m * 2 ^ d : Nat) : ℚ) = m / 2 ^ (-(d : Int)) := by
      rw [zpow_neg, div_inv_eq_mul, zpow_natCast, Nat.cast_mul, Nat.cast_pow, Nat.cast_ofNat]
    rw [neg_neg, Int.toNat_natCast, ← hexact]
    constructor <;> norm_num
  case isFalse h =>
    obtain ⟨d, rfl⟩ := Int.eq_ofNat_of_zero_le (not_le.mp h).le
    rw [Int.toNat_natCast, zpow_natCast]
    exact roundHalfEven_isNearestEven m d

/-! ## Rounding a magnitude to 24 bits (R91) -/

/-- `n * 2^(e - 23)` is the magnitude `x` rounded as `round_f32` does, `e` being the exponent of its leading bit or the least
one. -/
structure IsRounded (n : Nat) (e : Int) (x : ℚ) : Prop where
  nearest : IsNearestEven n (x / 2 ^ (e - 23))
  ge_least : -126 ≤ e
  lt_next : x < 2 ^ (e + 1)
  ge_self : -126 < e → 2 ^ e ≤ x

/-- The exponent `e` of `round_f32` (R91) for `m * 2^p`. -/
def leadingExponent (m : Nat) (p : Int) : Int := max ((Nat.log2 m : Int) + p) (-126)

theorem roundScaled_isRounded (m : Nat) (p : Int) (hm : m ≠ 0) :
    IsRounded (roundScaled m (leadingExponent m p - 23 - p)) (leadingExponent m p) (m * 2 ^ p) where
  nearest := by
    have h := roundScaled_isNearestEven m (leadingExponent m p - 23 - p)
    rwa [zpow_sub₀ two_ne_zero, div_div_eq_mul_div] at h
  ge_least := le_max_right _ _
  lt_next := by
    have hlog : (m : ℚ) < 2 ^ (m.log2 + 1) := by exact_mod_cast Nat.lt_log2_self
    calc (m : ℚ) * 2 ^ p < 2 ^ (m.log2 + 1) * 2 ^ p := by gcongr
      _ = 2 ^ ((m.log2 : Int) + p + 1) := by
        rw [← zpow_natCast, ← zpow_add₀ two_ne_zero]
        congr 1; push_cast; ring
      _ ≤ 2 ^ (leadingExponent m p + 1) :=
        zpow_le_zpow_right₀ one_le_two (add_le_add_left (le_max_left _ _) 1)
  ge_self h := by
    have heq : leadingExponent m p = m.log2 + p := max_eq_left ((lt_max_iff.mp h).resolve_right (lt_irrefl _)).le
    have hlog : (2 : ℚ) ^ m.log2 ≤ m := by exact_mod_cast Nat.log2_self_le hm
    rw [heq, zpow_add₀ two_ne_zero, zpow_natCast]
    gcongr

namespace IsRounded

variable {n : Nat} {e : Int} {x : ℚ}

theorem le_two_pow (h : IsRounded n e x) : n ≤ 2 ^ 24 := by
  refine h.nearest.le_of_le ?_
  rw [div_le_iff₀ (by positivity)]
  calc x ≤ 2 ^ (e + 1) := h.lt_next.le
    _ = ((2 ^ 24 : Nat) : ℚ) * 2 ^ (e - 23) := by
      rw [Nat.cast_pow, Nat.cast_ofNat, ← zpow_natCast, ← zpow_add₀ two_ne_zero]
      congr 1; push_cast; ring

theorem two_pow_le (h : IsRounded n e x) (he : -126 < e) : 2 ^ 23 ≤ n := by
  refine h.nearest.ge_of_ge ?_
  rw [le_div_iff₀ (by positivity)]
  calc ((2 ^ 23 : Nat) : ℚ) * 2 ^ (e - 23) = 2 ^ e := by
        rw [Nat.cast_pow, Nat.cast_ofNat, ← zpow_natCast, ← zpow_add₀ two_ne_zero]
        congr 1; push_cast; ring
    _ ≤ x := h.ge_self he

/-- Below the overflow bound the exponent is at most 127, also after a carry. -/
theorem fits (h : IsRounded n e x) (hx : x < f32OverflowBound) : e < 127 ∨ (e = 127 ∧ n < 2 ^ 24) := by
  rcases lt_trichotomy e 127 with hlt | rfl | hgt
  · exact .inl hlt
  · refine .inr ⟨rfl, ?_⟩
    have hupper := (abs_le.mp h.nearest.half).2
    have hunits : x / 2 ^ ((127 : Int) - 23) < 2 ^ 24 - 1 / 2 := by
      rw [div_lt_iff₀ (by positivity)]
      refine hx.trans_eq ?_
      norm_num [f32OverflowBound]
    have hn : (n : ℚ) < 2 ^ 24 := by linarith only [hupper, hunits]
    exact_mod_cast hn
  · exfalso
    have hle : (2 : ℚ) ^ (128 : Int) ≤ 2 ^ e := zpow_le_zpow_right₀ one_le_two hgt
    have hself := h.ge_self (by omega)
    have hbound : f32OverflowBound < 2 ^ (128 : Int) := by norm_num [f32OverflowBound]
    linarith only [hle, hself, hbound, hx]

/-- At and beyond the overflow bound the exponent is above 127, at least after the carry: halfway to `2^128` the tie goes up,
because `2^24 - 1` is odd. -/
theorem overflows (h : IsRounded n e x) (hx : f32OverflowBound ≤ x) : 127 < e ∨ (e = 127 ∧ n = 2 ^ 24) := by
  rcases lt_trichotomy e 127 with hlt | rfl | hgt
  · exfalso
    have hle : (2 : ℚ) ^ (e + 1) ≤ 2 ^ (127 : Int) := zpow_le_zpow_right₀ one_le_two hlt
    have hbound : (2 : ℚ) ^ (127 : Int) < f32OverflowBound := by norm_num [f32OverflowBound]
    linarith only [hle, h.lt_next, hbound, hx]
  · refine .inr ⟨rfl, h.le_two_pow.antisymm ?_⟩
    by_contra! hlt
    have hunits : 2 ^ 24 - 1 / 2 ≤ x / 2 ^ ((127 : Int) - 23) := by
      rw [le_div_iff₀ (by positivity)]
      refine Eq.trans_le ?_ hx
      norm_num [f32OverflowBound]
    have hn : (n : ℚ) ≤ 2 ^ 24 - 1 := by
      have hsucc : (n : ℚ) + 1 ≤ 2 ^ 24 := by exact_mod_cast Nat.succ_le_of_lt hlt
      linarith only [hsucc]
    have hhalf := h.nearest.half
    have hlower := (abs_le.mp hhalf).1
    have hodd : (n : ℚ) = 2 ^ 24 - 1 := by linarith only [hlower, hunits, hn]
    have htie : |(n : ℚ) - x / 2 ^ ((127 : Int) - 23)| = 1 / 2 := by
      refine hhalf.antisymm ?_
      rw [abs_sub_comm]
      refine le_trans ?_ (le_abs_self _)
      linarith only [hunits, hodd]
    have heven := h.nearest.even htie
    have hodd' : n + 1 = 2 ^ 24 := by exact_mod_cast (by linarith only [hodd] : (n : ℚ) + 1 = 2 ^ 24)
    omega
  · exact .inl hgt

end IsRounded

/-! ## The pattern of a rounded magnitude (R91) -/

/-- The significand shows the lowest bit of the pattern. -/
theorem getLsbD_zero_of_even {w : U32} (h : f32Significand w % 2 = 0) : w.getLsbD 0 = false := by
  rw [getLsbD_zero_eq, decide_eq_false_iff_not]
  unfold f32Significand at h
  split at h <;> omega

theorem assembleF32_infinity (neg : Bool) (n : Nat) (e : Int) (h : 127 < e) : assembleF32 neg n e = f32Inf neg := if_pos h

/-- Without overflow the assembled pattern is finite, with the significand and the exponent it was assembled from. -/
theorem assembleF32_finite (neg : Bool) (n : Nat) (e : Int) (hn : n < 2 ^ 24) (hlo : -126 ≤ e) (hhi : e ≤ 127)
    (hsub : n < 2 ^ 23 → e = -126) :
    f32IsFinite (assembleF32 neg n e) = true ∧ f32Significand (assembleF32 neg n e) = n ∧
      f32Scale (assembleF32 neg n e) = e - 23 := by
  simp only [f32IsFinite_iff, f32Significand, f32Scale, assembleF32, if_neg hhi.not_gt]
  split
  case isTrue hsmall =>
    obtain rfl := hsub hsmall
    rw [f32Exponent_packF32, f32Fraction_packF32, Nat.mod_eq_of_lt hsmall]
    exact ⟨by decide, rfl, rfl⟩
  case isFalse hbig =>
    have hexp : (e + 127).toNat % 2 ^ 8 = (e + 127).toNat := Nat.mod_eq_of_lt (by omega)
    rw [f32Exponent_packF32, f32Fraction_packF32, hexp, if_neg (by omega), if_neg (by omega)]
    omega

theorem f32Sign_assembleF32 (neg : Bool) (n : Nat) (e : Int) : f32Sign (assembleF32 neg n e) = neg := by
  unfold assembleF32 f32Inf
  split
  · exact f32Sign_packF32 _ _ _
  · split <;> exact f32Sign_packF32 _ _ _

/-- The last four lines of `round_f32` (R91): the carry into the next binade, then the assembly. -/
def assembleRounded (neg : Bool) (n : Nat) (e : Int) : U32 :=
  if n = 2 ^ 24 then assembleF32 neg (2 ^ 23) (e + 1) else assembleF32 neg n e

theorem roundF32_zero (neg : Bool) (p : Int) : roundF32 neg 0 p = packF32 neg 0 0 := rfl

theorem roundF32_eq_assembleRounded (neg : Bool) (m : Nat) (p : Int) (hm : m ≠ 0) :
    roundF32 neg m p = assembleRounded neg (roundScaled m (leadingExponent m p - 23 - p)) (leadingExponent m p) :=
  if_neg hm

theorem f32Sign_roundF32 (neg : Bool) (m : Nat) (p : Int) : f32Sign (roundF32 neg m p) = neg := by
  rcases eq_or_ne m 0 with rfl | hm
  · exact f32Sign_packF32 _ _ _
  · rw [roundF32_eq_assembleRounded neg m p hm, assembleRounded]
    split <;> exact f32Sign_assembleF32 _ _ _

/-- Below the overflow bound the pattern is finite and stands for the rounded magnitude, and an even rounded significand leaves
an even fraction. -/
theorem IsRounded.assembleRounded_finite {n : Nat} {e : Int} {x : ℚ} (h : IsRounded n e x) (hx : x < f32OverflowBound)
    (neg : Bool) :
    f32IsFinite (assembleRounded neg n e) = true ∧
      f32Value (assembleRounded neg n e) = signFactor neg * (n * 2 ^ (e - 23)) ∧
      (n % 2 = 0 → (assembleRounded neg n e).getLsbD 0 = false) := by
  have hfits := h.fits hx
  have hlo := h.ge_least
  unfold assembleRounded
  split
  case isTrue hcarry =>
    obtain ⟨hfin, hsig, hscale⟩ := assembleF32_finite neg (2 ^ 23) (e + 1) (by decide) (by omega) (by omega)
      fun hlt => absurd hlt (lt_irrefl _)
    refine ⟨hfin, ?_, fun _ => getLsbD_zero_of_even (by rw [hsig]; rfl)⟩
    rw [f32Value_eq, f32Sign_assembleF32, hsig, hscale, hcarry, show e + 1 - 23 = e - 23 + 1 by ring,
      zpow_add₀ two_ne_zero]
    push_cast
    ring
  case isFalse hno =>
    have hle := h.le_two_pow
    obtain ⟨hfin, hsig, hscale⟩ := assembleF32_finite neg n e (by omega) hlo (by omega) fun hlt => by
      by_contra hne
      exact absurd (h.two_pow_le (by omega)) (by omega)
    refine ⟨hfin, ?_, fun heven => getLsbD_zero_of_even (hsig.symm ▸ heven)⟩
    rw [f32Value_eq, f32Sign_assembleF32, hsig, hscale, mul_assoc]

/-- At and beyond the overflow bound the result is the infinity of the sign. -/
theorem roundF32_overflow (neg : Bool) (m : Nat) (p : Int) (h : f32OverflowBound ≤ m * 2 ^ p) :
    roundF32 neg m p = f32Inf neg := by
  have hm : m ≠ 0 := by
    rintro rfl
    norm_num [f32OverflowBound] at h
  rw [roundF32_eq_assembleRounded neg m p hm, assembleRounded]
  rcases (roundScaled_isRounded m p hm).overflows h with hgt | ⟨heq, hcarry⟩
  · split <;> exact assembleF32_infinity _ _ _ (by omega)
  · rw [if_pos hcarry, heq]
    exact assembleF32_infinity _ _ _ (by decide)

/-! ## Nearest on the grid is nearest of all values (R90, R91) -/

/-- `r` is `x` rounded to a multiple of `2^G`, a tie to the even fraction; and the grid is no finer than the values of `x`'s
binade, or the finest of all. -/
structure RoundsOnGrid (r : U32) (x : ℚ) (G : Int) : Prop where
  finite : f32IsFinite r = true
  onGrid : ∃ n : Int, f32Value r = n * 2 ^ G
  half : |f32Value r - x| ≤ 2 ^ G / 2
  even : |f32Value r - x| = 2 ^ G / 2 → r.getLsbD 0 = false
  binade : G ≤ -149 ∨ 2 ^ (G + 23) ≤ |x|

namespace RoundsOnGrid

variable {r : U32} {x : ℚ} {G : Int}

/-- Another multiple of `2^G` is at least half a unit away from `x`. -/
theorem half_le_of_multiple (h : RoundsOnGrid r x G) (m : Int) (hne : (m * 2 ^ G : ℚ) ≠ f32Value r) :
    2 ^ G / 2 ≤ |m * 2 ^ G - x| := by
  obtain ⟨n, hn⟩ := h.onGrid
  have hhalf := h.half
  have hpos : (0 : ℚ) < 2 ^ G := by positivity
  have hapart : (2 : ℚ) ^ G ≤ |m * 2 ^ G - f32Value r| := by
    have hmn : m - n ≠ 0 := sub_ne_zero.mpr fun heq => hne (by rw [hn, heq])
    have hone : (1 : ℚ) ≤ |((m - n : Int) : ℚ)| := by exact_mod_cast Int.one_le_abs hmn
    rw [hn, ← sub_mul, abs_mul, abs_of_pos hpos]
    calc (2 : ℚ) ^ G = 1 * 2 ^ G := (one_mul _).symm
      _ ≤ |(m : ℚ) - n| * 2 ^ G := by
        gcongr
        exact_mod_cast hone
  have htriangle := abs_sub_le (m * 2 ^ G : ℚ) x (f32Value r)
  rw [abs_sub_comm x] at htriangle
  linarith only [htriangle, hapart, hhalf]

/-- A multiple of `2^G` is no nearer than `r`. -/
theorem le_of_multiple (h : RoundsOnGrid r x G) (m : Int) : |f32Value r - x| ≤ |m * 2 ^ G - x| := by
  rcases eq_or_ne (m * 2 ^ G : ℚ) (f32Value r) with heq | hne
  · rw [heq]
  · exact h.half.trans (h.half_le_of_multiple m hne)

/-- A value below the binade of `x` is farther away than `r`: the binade's first value, on the grid, lies between. -/
theorem lt_of_below (h : RoundsOnGrid r x G) {y : ℚ} (hy : |y| < 2 ^ (G + 23)) (hx : 2 ^ (G + 23) ≤ |x|) :
    |f32Value r - x| < |y - x| := by
  have hfirst : ((2 ^ 23 : Int) : ℚ) * 2 ^ G = 2 ^ (G + 23) := by
    rw [add_comm, zpow_add₀ two_ne_zero]; norm_cast
  obtain ⟨hylo, hyhi⟩ := abs_lt.mp hy
  rcases le_or_gt 0 x with hnonneg | hneg
  · rw [abs_of_nonneg hnonneg] at hx
    have hle := h.le_of_multiple (2 ^ 23)
    rw [hfirst, abs_of_nonpos (sub_nonpos.mpr hx)] at hle
    rw [abs_of_neg (sub_neg.mpr (hyhi.trans_le hx))]
    linarith only [hle, hyhi]
  · rw [abs_of_neg hneg, le_neg] at hx
    have hle := h.le_of_multiple (-(2 ^ 23))
    rw [Int.cast_neg, neg_mul, hfirst, abs_of_nonneg (sub_nonneg.mpr hx)] at hle
    rw [abs_of_pos (sub_pos.mpr (hx.trans_lt hylo))]
    linarith only [hle, hylo]

theorem isNearest (h : RoundsOnGrid r x G) : isNearestF32 r x := by
  refine ⟨h.finite, fun w _ => ?_, fun w _ htie hne => ?_⟩
  · rcases f32Value_on_grid_or_below w G with ⟨m, hm⟩ | ⟨hG, hsmall⟩
    · exact hm ▸ h.le_of_multiple m
    · exact (h.lt_of_below hsmall (h.binade.resolve_left hG.not_ge)).le
  · rcases f32Value_on_grid_or_below w G with ⟨m, hm⟩ | ⟨hG, hsmall⟩
    · refine h.even (h.half.antisymm ?_)
      rw [hm] at hne htie
      exact (h.half_le_of_multiple m hne).trans_eq htie
    · exact absurd htie (h.lt_of_below hsmall (h.binade.resolve_left hG.not_ge)).ne'

end RoundsOnGrid

theorem roundF32_roundsOnGrid (neg : Bool) (m : Nat) (p : Int) (hm : m ≠ 0) (h : m * 2 ^ p < f32OverflowBound) :
    RoundsOnGrid (roundF32 neg m p) (signFactor neg * (m * 2 ^ p)) (leadingExponent m p - 23) := by
  have hrounded := roundScaled_isRounded m p hm
  rw [roundF32_eq_assembleRounded neg m p hm]
  generalize leadingExponent m p = e at *
  generalize roundScaled m (e - 23 - p) = n at *
  generalize (m * 2 ^ p : ℚ) = x at *
  obtain ⟨hfin, hval, heven⟩ := hrounded.assembleRounded_finite h neg
  have hpos : (0 : ℚ) < 2 ^ (e - 23) := by positivity
  have herror : |f32Value (assembleRounded neg n e) - signFactor neg * x| =
      |n - x / 2 ^ (e - 23)| * 2 ^ (e - 23) := by
    rw [hval, ← mul_sub, abs_signFactor_mul, ← abs_of_pos hpos, ← abs_mul, abs_of_pos hpos, sub_mul,
      div_mul_cancel₀ _ hpos.ne']
  refine ⟨hfin, ?_, ?_, fun htie => ?_, ?_⟩
  · cases neg with
    | false => exact ⟨n, by rw [hval, signFactor_false, one_mul]; rfl⟩
    | true => exact ⟨-n, by rw [hval, signFactor_true]; push_cast; ring⟩
  · calc _ = |n - x / 2 ^ (e - 23)| * 2 ^ (e - 23) := herror
      _ ≤ 1 / 2 * 2 ^ (e - 23) := mul_le_mul_of_nonneg_right hrounded.nearest.half hpos.le
      _ = 2 ^ (e - 23) / 2 := one_div_mul_eq_div _ _
  · refine heven (hrounded.nearest.even ?_)
    exact mul_right_cancel₀ hpos.ne' (herror.symm.trans (htie.trans (one_div_mul_eq_div _ _).symm))
  · rcases hrounded.ge_least.eq_or_lt with rfl | hlt
    · exact .inl (by decide)
    · rw [abs_signFactor_mul, sub_add_cancel]
      exact .inr ((hrounded.ge_self hlt).trans (le_abs_self _))

/-- `round_f32` (R91) below the overflow bound, an exact zero included. -/
theorem roundF32_isNearest (neg : Bool) (m : Nat) (p : Int) (h : m * 2 ^ p < f32OverflowBound) :
    isNearestF32 (roundF32 neg m p) (signFactor neg * (m * 2 ^ p)) := by
  rcases eq_or_ne m 0 with rfl | hm
  · have hzero := f32Value_signed_zero neg
    rw [roundF32_zero, Nat.cast_zero, zero_mul, mul_zero]
    refine ⟨f32IsFinite_signed_zero neg, fun w _ => ?_, fun w _ htie hne => ?_⟩
    · rw [hzero, sub_zero, abs_zero]
      exact abs_nonneg _
    · rw [hzero, sub_zero, sub_zero, abs_zero, abs_eq_zero] at htie
      exact absurd (htie.trans hzero.symm) hne
  · exact (roundF32_roundsOnGrid neg m p hm h).isNearest

/-! ## What a nearest value keeps -/

/-- Of two numbers the greater is the nearer to `x` only from the middle of the two on. -/
theorem add_le_of_abs_sub_le {a b x : ℚ} (hlt : b < a) (h : |a - x| ≤ |b - x|) : a + b ≤ 2 * x := by
  have hsq : (a - x) ^ 2 ≤ (b - x) ^ 2 := sq_le_sq.mpr h
  have hprod : (a - b) * (a + b - 2 * x) ≤ 0 := by linarith only [hsq]
  have hmid := nonpos_of_mul_nonpos_right hprod (sub_pos.mpr hlt)
  linarith only [hmid]

/-- Of two numbers the lesser is the nearer to `x` only up to the middle of the two. -/
theorem le_add_of_abs_sub_le {a b x : ℚ} (hlt : a < b) (h : |a - x| ≤ |b - x|) : 2 * x ≤ a + b := by
  have hneg := add_le_of_abs_sub_le (a := -a) (b := -b) (x := -x) (neg_lt_neg hlt) (by
    rwa [← neg_sub', ← neg_sub', abs_neg, abs_neg])
  linarith only [hneg]

section
variable {r : U32} {x : ℚ}

/-- Rounding does not pass a binary32 value from below. -/
theorem isNearestF32.le_value (h : isNearestF32 r x) {w : U32} (hw : f32IsFinite w = true) (hx : x ≤ f32Value w) :
    f32Value r ≤ f32Value w := by
  obtain ⟨-, hmin, -⟩ := h
  by_contra! hlt
  linarith only [add_le_of_abs_sub_le hlt (hmin w hw), hx, hlt]

/-- Rounding does not pass a binary32 value from above. -/
theorem isNearestF32.value_le (h : isNearestF32 r x) {w : U32} (hw : f32IsFinite w = true) (hx : f32Value w ≤ x) :
    f32Value w ≤ f32Value r := by
  obtain ⟨-, hmin, -⟩ := h
  by_contra! hlt
  linarith only [le_add_of_abs_sub_le hlt (hmin w hw), hx, hlt]

/-- A binary32 value is rounded to itself. -/
theorem isNearestF32.value_eq {w : U32} (h : isNearestF32 r (f32Value w)) (hw : f32IsFinite w = true) :
    f32Value r = f32Value w :=
  (h.le_value hw le_rfl).antisymm (h.value_le hw le_rfl)

/-- Rounding is monotone. -/
theorem isNearestF32.mono (h : isNearestF32 r x) {r' : U32} {x' : ℚ} (h' : isNearestF32 r' x') (hlt : x < x') :
    f32Value r ≤ f32Value r' := by
  obtain ⟨hfin, hmin, -⟩ := h
  obtain ⟨hfin', hmin', -⟩ := h'
  by_contra! hgt
  linarith only [add_le_of_abs_sub_le hgt (hmin r' hfin'), le_add_of_abs_sub_le hgt (hmin' r hfin), hlt]

end

end Sys2Proof.Machine

/-! SUPPORT. The binary32 operations (R91): finite operands give the exact result rounded once; NaN and infinite operands; sums
and products with a zero. -/

namespace Sys2Proof.Machine

/-! ## A result is one rounding of an exact value (R91) -/

theorem abs_signed_magnitude (neg : Bool) (m : Nat) (p : Int) : |signFactor neg * (m * 2 ^ p)| = m * 2 ^ p := by
  rw [abs_signFactor_mul, abs_of_nonneg (by positivity)]

/-- A finite value in units of `2^p`. -/
theorem f32Units_mul_two_zpow (w : U32) (p : Int) (h : p ≤ f32Scale w) : (f32Units w p : ℚ) * 2 ^ p = f32Value w := by
  obtain ⟨d, hd⟩ := Int.eq_ofNat_of_zero_le (sub_nonneg.mpr h)
  have hscale : (2 : ℚ) ^ f32Scale w = 2 ^ d * 2 ^ p := by
    rw [← zpow_natCast, ← zpow_add₀ two_ne_zero, ← hd, sub_add_cancel]
  rw [f32Value_eq, hscale, f32Units, hd, Int.toNat_natCast]
  cases f32Sign w
  · rw [if_neg Bool.false_ne_true, signFactor_false]
    push_cast
    ring
  · rw [if_pos rfl, signFactor_true]
    push_cast
    ring

theorem f32Add_of_finite {x y : U32} (hx : f32IsFinite x = true) (hy : f32IsFinite y = true) :
    f32Add x y = f32AddFinite x y := by
  simp [f32Add, not_isNaN_of_finite hx, not_isNaN_of_finite hy, not_isInf_of_finite hx, not_isInf_of_finite hy]

/-- The sum of two finite values is the exact sum, rounded once. -/
theorem f32Add_exists_exact {x y : U32} (hx : f32IsFinite x = true) (hy : f32IsFinite y = true) :
    ∃ neg m p, f32Add x y = roundF32 neg m p ∧ f32Value x + f32Value y = signFactor neg * (m * 2 ^ p) ∧
      (m = 0 → neg = (f32Sign x && f32Sign y)) := by
  rw [f32Add_of_finite hx hy, f32AddFinite, ← f32Units_mul_two_zpow x _ (min_le_left _ (f32Scale y)),
    ← f32Units_mul_two_zpow y _ (min_le_right (f32Scale x) _)]
  generalize min (f32Scale x) (f32Scale y) = p
  rw [← add_mul, ← Int.cast_add]
  generalize f32Units x p + f32Units y p = z
  refine ⟨if z = 0 then f32Sign x && f32Sign y else decide (z < 0), z.natAbs, p, ?_, ?_,
    fun h => if_pos (Int.natAbs_eq_zero.mp h)⟩
  · split
    case isTrue h => rw [h]; rfl
    case isFalse h => rfl
  · rcases lt_trichotomy z 0 with hneg | rfl | hpos
    · have habs : (z.natAbs : ℚ) = -z := by rw [Nat.cast_natAbs, abs_of_neg hneg, Int.cast_neg]
      rw [if_neg hneg.ne, decide_eq_true hneg, signFactor_true, habs]
      ring
    · simp
    · have habs : (z.natAbs : ℚ) = z := by rw [Nat.cast_natAbs, abs_of_pos hpos]
      rw [if_neg hpos.ne', decide_eq_false hpos.not_gt, signFactor_false, habs, one_mul]

/-- Settles O44. -/
theorem sumIsCorrectlyRounded : Obligations.SumIsCorrectlyRounded := by
  intro x y hx hy
  obtain ⟨neg, m, p, hround, hexact, hzero⟩ := f32Add_exists_exact hx hy
  have hpow : (0 : ℚ) < 2 ^ p := by positivity
  have hbound : 0 < f32OverflowBound := by norm_num [f32OverflowBound]
  have hmag : (0 : ℚ) ≤ m * 2 ^ p := by positivity
  rw [hround, hexact]
  refine ⟨fun h => roundF32_isNearest neg m p (by rwa [abs_signed_magnitude] at h), fun h => ?_, fun h => ?_, fun h => ?_⟩
  · cases neg with
    | false => exact roundF32_overflow false m p (by rwa [signFactor_false, one_mul] at h)
    | true =>
      rw [signFactor_true] at h
      linarith only [h, hmag, hbound]
  · cases neg with
    | false =>
      rw [signFactor_false] at h
      linarith only [h, hmag, hbound]
    | true => exact roundF32_overflow true m p (by rw [signFactor_true] at h; linarith only [h])
  · have hm : m = 0 := by
      rw [← abs_eq_zero, abs_signed_magnitude, mul_eq_zero] at h
      exact_mod_cast h.resolve_right hpow.ne'
    rw [← hzero hm, hm]
    cases neg <;> rfl

/-- `f32_sub` is `f32_add` with bit 31 of `y` inverted; for NaN operands too, as both give the NaN. -/
theorem f32Sub_eq_add_negate (x y : U32) : f32Sub x y = f32Add x (f32Negate y) := by
  unfold f32Sub
  split
  case isTrue h => rw [f32Add, f32IsNaN_negate, if_pos h]
  case isFalse => rfl

/-- Settles O45: a difference is the sum with the operand of the inverted sign. -/
theorem differenceIsCorrectlyRounded : Obligations.DifferenceIsCorrectlyRounded := by
  intro x y hx hy
  have hsum := sumIsCorrectlyRounded x (f32Negate y) hx (by rwa [f32IsFinite_negate])
  rwa [f32Value_negate, f32Sign_negate, ← sub_eq_add_neg, ← f32Sub_eq_add_negate] at hsum

theorem f32Mul_of_finite {x y : U32} (hx : f32IsFinite x = true) (hy : f32IsFinite y = true) :
    f32Mul x y =
      roundF32 (f32Sign x != f32Sign y) (f32Significand x * f32Significand y) (f32Scale x + f32Scale y) := by
  simp [f32Mul, not_isNaN_of_finite hx, not_isNaN_of_finite hy, not_isInf_of_finite hx, not_isInf_of_finite hy]

/-- The exact product, as `f32_mul` rounds it. -/
theorem f32Value_mul (x y : U32) :
    f32Value x * f32Value y = signFactor (f32Sign x != f32Sign y) *
      ((f32Significand x * f32Significand y : Nat) * 2 ^ (f32Scale x + f32Scale y)) := by
  rw [f32Value_eq, f32Value_eq, signFactor_bne, zpow_add₀ two_ne_zero, Nat.cast_mul]
  ring

/-- Settles O46. -/
theorem productIsCorrectlyRounded : Obligations.ProductIsCorrectlyRounded := by
  intro x y hx hy
  rw [f32Mul_of_finite hx hy, f32Value_mul, abs_signed_magnitude]
  refine ⟨f32Sign_roundF32 _ _ _, roundF32_isNearest _ _ _, fun h => ?_⟩
  rw [roundF32_overflow _ _ _ h, f32IsInf_f32Inf]

/-! ## NaN and infinite operands (R91) -/

theorem f32Add_of_isNaN {x y : U32} (h : (f32IsNaN x || f32IsNaN y) = true) : f32Add x y = 0x7FC00000 := if_pos h
theorem f32Sub_of_isNaN {x y : U32} (h : (f32IsNaN x || f32IsNaN y) = true) : f32Sub x y = 0x7FC00000 := if_pos h
theorem f32Mul_of_isNaN {x y : U32} (h : (f32IsNaN x || f32IsNaN y) = true) : f32Mul x y = 0x7FC00000 := if_pos h

theorem f32Add_inf_inf {x y : U32} (hx : f32IsInf x = true) (hy : f32IsInf y = true) :
    f32Add x y = if f32Sign x = f32Sign y then x else 0x7FC00000 := by
  simp [f32Add, not_isNaN_of_inf hx, not_isNaN_of_inf hy, hx, hy, Config.nanResult]

theorem f32Add_inf_finite {x y : U32} (hx : f32IsInf x = true) (hy : f32IsFinite y = true) : f32Add x y = x := by
  simp [f32Add, not_isNaN_of_inf hx, not_isNaN_of_finite hy, hx, not_isInf_of_finite hy]

theorem f32Add_finite_inf {x y : U32} (hx : f32IsFinite x = true) (hy : f32IsInf y = true) : f32Add x y = y := by
  simp [f32Add, not_isNaN_of_inf hy, not_isNaN_of_finite hx, hy, not_isInf_of_finite hx]

theorem f32Mul_inf_left {x y : U32} (hx : f32IsInf x = true) (hy : f32IsNaN y = false) :
    f32Mul x y = if f32IsZero y then 0x7FC00000 else f32Inf (f32Sign x != f32Sign y) := by
  simp [f32Mul, not_isNaN_of_inf hx, hy, hx, not_isZero_of_inf hx, Config.nanResult]

theorem f32Mul_inf_right {x y : U32} (hx : f32IsInf x = true) (hy : f32IsNaN y = false) :
    f32Mul y x = if f32IsZero y then 0x7FC00000 else f32Inf (f32Sign x != f32Sign y) := by
  simp [f32Mul, not_isNaN_of_inf hx, hy, hx, not_isZero_of_inf hx, Config.nanResult, bne_comm]

/-- Settles O47. -/
theorem specialOperands : Obligations.SpecialOperands := by
  intro x y
  refine ⟨fun h => ⟨f32Add_of_isNaN h, f32Sub_of_isNaN h, f32Mul_of_isNaN h⟩, fun hx hy => ⟨f32Add_inf_inf hx hy, ?_⟩,
    fun hx hy => ⟨f32Add_inf_finite hx hy, f32Add_finite_inf hy hx, ?_, ?_⟩,
    fun hx hy => ⟨(f32Mul_inf_left hx hy).trans (f32Mul_inf_right hx hy).symm, ?_⟩⟩
  · rw [f32Sub_eq_add_negate, f32Add_inf_inf hx (by rwa [f32IsInf_negate]), f32Sign_negate]
    cases f32Sign x <;> cases f32Sign y <;> rfl
  · rw [f32Sub_eq_add_negate, f32Add_inf_finite hx (by rwa [f32IsFinite_negate])]
  · rw [f32Sub_eq_add_negate, f32Add_finite_inf hy (by rwa [f32IsInf_negate]), f32Negate]
  · rw [f32Mul_inf_left hx hy]
    cases f32Sign x <;> cases f32Sign y <;> rfl

/-! ## Finite values lie below the overflow bound, and a zero operand (R91) -/

theorem abs_f32Value_lt_overflowBound {w : U32} (h : f32IsFinite w = true) : |f32Value w| < f32OverflowBound := by
  have hsig : (f32Significand w : ℚ) ≤ 2 ^ 24 - 1 := by
    have hsucc : (f32Significand w : ℚ) + 1 ≤ 2 ^ 24 := by exact_mod_cast f32Significand_lt w
    linarith only [hsucc]
  calc |f32Value w| = f32Significand w * 2 ^ f32Scale w := abs_f32Value w
    _ ≤ (2 ^ 24 - 1) * 2 ^ (104 : Int) := by
      gcongr
      · exact one_le_two
      · exact f32Scale_le w h
    _ < f32OverflowBound := by norm_num [f32OverflowBound]

/-- A zero added to a finite value gives that value, where `-0` stays only beside a negative zero. -/
theorem f32Add_signed_zero (neg : Bool) {a : U32} (ha : f32IsFinite a = true) :
    f32Add (packF32 neg 0 0) a = if a = 0x80000000 then (if neg then 0x80000000 else 0) else a := by
  obtain ⟨hnear, -, -, hexact⟩ := sumIsCorrectlyRounded (packF32 neg 0 0) a (f32IsFinite_signed_zero neg) ha
  rw [f32Value_signed_zero, zero_add] at hnear hexact
  by_cases hval : f32Value a = 0
  · rw [hexact hval, f32Sign_packF32]
    rcases (f32Value_eq_zero_iff a).mp hval with rfl | rfl <;> cases neg <;> rfl
  · have hne : a ≠ 0x80000000 := fun h => hval (h ▸ f32Value_negative_zero)
    rw [if_neg hne]
    exact f32Value_injective ((hnear (abs_f32Value_lt_overflowBound ha)).value_eq ha) hval

/-- The product with a zero is the zero of the exclusive-or sign. -/
theorem f32Mul_of_significand_eq_zero {x y : U32} (hx : f32IsFinite x = true) (hy : f32IsFinite y = true)
    (h : f32Significand x = 0 ∨ f32Significand y = 0) : f32Mul x y = packF32 (f32Sign x != f32Sign y) 0 0 := by
  rw [f32Mul_of_finite hx hy, Nat.mul_eq_zero.mpr h, roundF32_zero]

/-- The sign of `b - -0` is that of `b`'s value: a zero `b` gives `+0`. -/
theorem f32Sign_sub_negative_zero {b : U32} (hb : f32IsFinite b = true) :
    f32Sign (f32Sub b 0x80000000) = decide (f32Value b < 0) := by
  obtain ⟨hnear, -, -, hexact⟩ := differenceIsCorrectlyRounded b 0x80000000 hb rfl
  rw [f32Value_negative_zero, sub_zero] at hnear hexact
  by_cases h : f32Value b = 0
  · rw [hexact h, h]
    simp [f32Sign]
  · have heq := (hnear (abs_f32Value_lt_overflowBound hb)).value_eq hb
    rw [f32Sign_eq_decide_neg (heq ▸ h), heq]

end Sys2Proof.Machine

/-! SUPPORT. The float samplers (R90, R93, R94, R97): the conversion as `round_f32` of an integer, `Unit` as that value divided by
2^32, and the affine map of NEXTFLOAT_AB. -/

namespace Sys2Proof.Machine

/-! ## NEXTFLOAT and NEXTFLOAT_AB answer one draw (R93, R94) -/

theorem resultOf_nextFloat (raw : U32) : resultOf .nextFloat raw = unitF32 raw := rfl

theorem resultOf_nextFloatAB (a b raw : U32) : resultOf (.nextFloatAB a b) raw = floatABResult raw a b := rfl

theorem unitF32_zero : unitF32 0 = 0 := rfl

theorem unitF32_of_ne_zero {raw : U32} (h : raw ≠ 0) : unitF32 raw = u32ToF32 raw - Config.floatAdjustment := if_neg h

/-- Settles O20. -/
theorem nextFloatAnswersUnit : Obligations.NextFloatAnswersUnit := by
  intro s
  obtain ⟨t, hexec, hwords, hseed, hanswer, hkept⟩ := exec_and_words .nextFloat s
  rw [responseOf_accepted .nextFloat _ rfl, resultOf_nextFloat] at hanswer
  refine ⟨t, hexec, fun w hop => hwords w (decode_nextFloat w hop), hseed, hkept, fun hzero => ?_, fun hne => ?_⟩
  · rw [hanswer, hzero, unitF32_zero]
  · rw [hanswer, unitF32_of_ne_zero hne, Config.floatAdjustment]

/-- Settles O21. -/
theorem nextFloatABAnswersAffineMap : Obligations.NextFloatABAnswersAffineMap := by
  intro a b s
  obtain ⟨t, hexec, hwords, hseed, hanswer, hkept⟩ := exec_and_words (.nextFloatAB a b) s
  rw [responseOf_accepted (.nextFloatAB a b) _ rfl, resultOf_nextFloatAB, floatABResult] at hanswer
  refine ⟨t, hexec, fun w hop ha hb => hwords w ?_, hseed, hkept, hanswer⟩
  subst ha hb
  exact decode_nextFloatAB w hop

/-! ## The conversion (R90) -/

theorem toNat_ne_zero {v : U32} (h : v ≠ 0) : v.toNat ≠ 0 := fun hzero => h (BitVec.eq_of_toNat_eq hzero)

theorem log2_toNat_le (v : U32) : v.toNat.log2 ≤ 31 := by
  rcases eq_or_ne v 0 with rfl | h
  · decide
  · exact Nat.le_of_lt_succ ((Nat.log2_lt (toNat_ne_zero h)).mpr v.isLt)

/-- For an integer the leading exponent is the position of the highest set bit. -/
theorem leadingExponent_integer (m : Nat) : leadingExponent m 0 = m.log2 := by
  rw [leadingExponent, add_zero]
  omega

/-- The rounded significand `q` of R90, before the carry. -/
def u32Significand (v : U32) : Nat :=
  if v.toNat.log2 ≤ 23 then v.toNat * 2 ^ (23 - v.toNat.log2) else roundHalfEven v.toNat (v.toNat.log2 - 23)

theorem u32ToF32_eq (v : U32) :
    u32ToF32 v =
      if u32Significand v = 2 ^ 24 then packF32 false (127 + (v.toNat.log2 + 1)) (2 ^ 23)
      else packF32 false (127 + v.toNat.log2) (u32Significand v) := rfl

/-- The significand of R90 is the one `round_f32` computes. -/
theorem roundScaled_eq_u32Significand (v : U32) :
    roundScaled v.toNat ((v.toNat.log2 : Int) - 23 - 0) = u32Significand v := by
  unfold roundScaled u32Significand
  split
  case isTrue h => rw [if_pos (by omega), show (-((v.toNat.log2 : Int) - 23 - 0)).toNat = 23 - v.toNat.log2 by omega]
  case isFalse h => rw [if_neg (by omega), show ((v.toNat.log2 : Int) - 23 - 0).toNat = v.toNat.log2 - 23 by omega]

/-- The conversion is `round_f32` of the integer: no case of it overflows or is subnormal. -/
theorem u32ToF32_eq_roundF32 (v : U32) (h : v ≠ 0) : u32ToF32 v = roundF32 false v.toNat 0 := by
  have hrounded := roundScaled_isRounded v.toNat 0 (toNat_ne_zero h)
  have hk := log2_toNat_le v
  rw [u32ToF32_eq, roundF32_eq_assembleRounded _ _ _ (toNat_ne_zero h)]
  rw [leadingExponent_integer, roundScaled_eq_u32Significand] at *
  have hq := hrounded.two_pow_le (by omega)
  simp only [assembleRounded, assembleF32]
  generalize v.toNat.log2 = k at *
  rw [if_neg (show ¬(127 : Int) < k + 1 by omega), if_neg (show ¬(127 : Int) < k by omega), if_neg (lt_irrefl _),
    if_neg hq.not_gt, show ((k : Int) + 1 + 127).toNat = 127 + (k + 1) by omega,
    show ((k : Int) + 127).toNat = 127 + k by omega]

theorem u32ToF32_fields (v : U32) :
    f32Sign (u32ToF32 v) = false ∧ 127 ≤ f32Exponent (u32ToF32 v) ∧ f32Exponent (u32ToF32 v) ≤ 159 := by
  have hk := log2_toNat_le v
  rw [u32ToF32_eq]
  split
  case isTrue =>
    rw [f32Sign_packF32, f32Exponent_packF32, Nat.mod_eq_of_lt (by omega)]
    exact ⟨rfl, by omega, by omega⟩
  case isFalse =>
    rw [f32Sign_packF32, f32Exponent_packF32, Nat.mod_eq_of_lt (by omega)]
    exact ⟨rfl, by omega, by omega⟩

/-- The conversion rounds on the grid of the binade of its integer. -/
theorem u32ToF32_roundsOnGrid (v : U32) (h : v ≠ 0) :
    RoundsOnGrid (u32ToF32 v) v.toNat ((v.toNat.log2 : Int) - 23) := by
  have hlt : (v.toNat : ℚ) * 2 ^ (0 : Int) < f32OverflowBound := by
    have hv : (v.toNat : ℚ) < 2 ^ 32 := by exact_mod_cast v.isLt
    rw [zpow_zero, mul_one]
    exact hv.trans (by norm_num [f32OverflowBound])
  have hgrid := roundF32_roundsOnGrid false v.toNat 0 (toNat_ne_zero h) hlt
  rwa [← u32ToF32_eq_roundF32 v h, leadingExponent_integer, signFactor_false, one_mul, zpow_zero, mul_one] at hgrid

/-- Settles O40. -/
theorem conversionIsNearest : Obligations.ConversionIsNearest :=
  fun v h => ⟨(u32ToF32_roundsOnGrid v h).isNearest, u32ToF32_fields v⟩

/-! ## `Unit` (R93, R96) -/

/-- Where 32 can be taken from the exponent field of a normal value and leave it normal, the value is divided by 2^32. -/
theorem f32Value_sub_adjustment (w : U32) (h : 33 ≤ f32Exponent w) :
    f32Value (w - Config.floatAdjustment) = f32Value w / 2 ^ 32 := by
  obtain ⟨hsign, hexp, hfrac⟩ := f32Fields_sub_adjustment w (by omega)
  have hsig : f32Significand (w - Config.floatAdjustment) = f32Significand w := by
    rw [f32Significand, f32Significand, hexp, hfrac, if_neg (by omega), if_neg (by omega)]
  have hscale : f32Scale (w - Config.floatAdjustment) = f32Scale w - (32 : Nat) := by
    rw [f32Scale, f32Scale, hexp, if_neg (by omega), if_neg (by omega)]
    omega
  rw [f32Value_eq, f32Value_eq, hsign, hsig, hscale, zpow_sub₀ two_ne_zero, zpow_natCast, mul_div_assoc]

theorem unitF32_fields {raw : U32} (h : raw ≠ 0) :
    f32Sign (unitF32 raw) = false ∧ f32Exponent (unitF32 raw) = f32Exponent (u32ToF32 raw) - 32 ∧
      f32Fraction (unitF32 raw) = f32Fraction (u32ToF32 raw) := by
  obtain ⟨hsign, hlo, -⟩ := u32ToF32_fields raw
  rw [unitF32_of_ne_zero h, ← hsign]
  exact f32Fields_sub_adjustment _ (by omega)

theorem f32Value_unitF32 {raw : U32} (h : raw ≠ 0) : f32Value (unitF32 raw) = f32Value (u32ToF32 raw) / 2 ^ 32 := by
  obtain ⟨-, hlo, -⟩ := u32ToF32_fields raw
  rw [unitF32_of_ne_zero h, f32Value_sub_adjustment _ (by omega)]

theorem f32Sign_unitF32 (raw : U32) : f32Sign (unitF32 raw) = false := by
  rcases eq_or_ne raw 0 with rfl | h
  · rfl
  · exact (unitF32_fields h).1

theorem f32IsFinite_unitF32 (raw : U32) : f32IsFinite (unitF32 raw) = true := by
  rcases eq_or_ne raw 0 with rfl | h
  · rfl
  · obtain ⟨-, hexp, -⟩ := unitF32_fields h
    obtain ⟨-, -, hhi⟩ := u32ToF32_fields raw
    rw [f32IsFinite_iff]
    omega

/-- Dividing by 2^32 moves the grid with the value, so the rounding of the conversion is that of the quotient. -/
theorem unitF32_roundsOnGrid {raw : U32} (h : raw ≠ 0) :
    RoundsOnGrid (unitF32 raw) (raw.toNat / 2 ^ 32) ((raw.toNat.log2 : Int) - 23 - (32 : Nat)) := by
  have hgrid := u32ToF32_roundsOnGrid raw h
  have hpos : (0 : ℚ) < 2 ^ 32 := by positivity
  have hscale (G : Int) : (2 : ℚ) ^ (G - (32 : Nat)) = 2 ^ G / 2 ^ 32 := by
    rw [zpow_sub₀ two_ne_zero, zpow_natCast]
  have herror : |f32Value (unitF32 raw) - raw.toNat / 2 ^ 32| = |f32Value (u32ToF32 raw) - raw.toNat| / 2 ^ 32 := by
    rw [f32Value_unitF32 h, ← sub_div, abs_div, abs_of_pos hpos]
  refine ⟨f32IsFinite_unitF32 raw, ?_, ?_, fun htie => ?_, .inr ?_⟩
  · obtain ⟨n, hn⟩ := hgrid.onGrid
    exact ⟨n, by rw [f32Value_unitF32 h, hn, hscale, mul_div_assoc]⟩
  · rw [herror, hscale, div_right_comm]
    gcongr
    exact hgrid.half
  · rw [herror, hscale, div_right_comm] at htie
    have heven := hgrid.even ((div_left_inj' hpos.ne').mp htie)
    rwa [getLsbD_zero_eq, (unitF32_fields h).2.2, ← getLsbD_zero_eq]
  · rw [abs_div, abs_of_pos hpos, sub_add_eq_add_sub, hscale]
    gcongr
    exact hgrid.binade.resolve_left (by omega)

/-- Settles O41. -/
theorem unitScalesTheConversion : Obligations.UnitScalesTheConversion := by
  intro raw h
  obtain ⟨-, hexp, -⟩ := unitF32_fields h
  obtain ⟨-, hlo, hhi⟩ := u32ToF32_fields raw
  exact ⟨f32Value_unitF32 h, by omega, by omega, (unitF32_roundsOnGrid h).isNearest⟩

theorem f32Value_unitF32_nonneg (raw : U32) : 0 ≤ f32Value (unitF32 raw) := f32Value_nonneg_of_sign (f32Sign_unitF32 raw)

/-- Settles O43: rounding is monotone, and the draw 0 has the least value. -/
theorem unitIsMonotone : Obligations.UnitIsMonotone := by
  intro raw raw' hle
  rcases eq_or_ne raw 0 with rfl | hne
  · rw [unitF32_zero, f32Value_zero]
    exact f32Value_unitF32_nonneg raw'
  · rcases hle.eq_or_lt with heq | hlt
    · rw [BitVec.eq_of_toNat_eq heq]
    · have hne' : raw' ≠ 0 := by
        rintro rfl
        exact absurd hlt (Nat.not_lt_zero _)
      refine (unitF32_roundsOnGrid hne).isNearest.mono (unitF32_roundsOnGrid hne').isNearest ?_
      gcongr

theorem f32Value_one : f32Value 0x3F800000 = 1 := by
  rw [f32Value_of_parts false (2 ^ 23) (-23) rfl rfl rfl]
  norm_num

/-- The least draw that gives 1 is a tie, and the tie goes to 1. -/
theorem unitF32_least_one : unitF32 0xFFFFFF80 = 0x3F800000 := by decide

/-- The greatest draw that does not give 1 gives the value before it. -/
theorem unitF32_greatest_below_one : unitF32 0xFFFFFF7F = 0x3F7FFFFF := by decide

theorem f32Value_before_one : f32Value 0x3F7FFFFF < 1 := by
  rw [f32Value_of_parts false (2 ^ 24 - 1) (-24) rfl rfl rfl]
  norm_num

theorem unitF32_greatest : unitF32 0xFFFFFFFF = 0x3F800000 := by decide

theorem unitF32_one : unitF32 1 = 0x2F800000 := by decide

theorem f32Value_least_unit : f32Value 0x2F800000 = 1 / 2 ^ 32 := by
  rw [f32Value_of_parts false (2 ^ 23) (-55) rfl rfl rfl]
  norm_num

theorem f32Value_unitF32_le_one (raw : U32) : f32Value (unitF32 raw) ≤ 1 := by
  have hmax := unitIsMonotone raw 0xFFFFFFFF (Nat.le_of_lt_succ raw.isLt)
  rwa [unitF32_greatest, f32Value_one] at hmax

/-- Settles O42. -/
theorem unitLiesInClosedInterval : Obligations.UnitLiesInClosedInterval := by
  intro raw
  have hleast (h : raw ≠ 0) : 1 / 2 ^ 32 ≤ f32Value (unitF32 raw) := by
    have hmono := unitIsMonotone 1 raw (Nat.pos_of_ne_zero (toNat_ne_zero h))
    rwa [unitF32_one, f32Value_least_unit] at hmono
  refine ⟨⟨fun hzero => ?_, fun h => h ▸ unitF32_zero⟩, f32IsFinite_unitF32 raw, f32Value_unitF32_nonneg raw,
    f32Value_unitF32_le_one raw, hleast, fun hone => ?_, fun hge => ?_⟩
  · by_contra h
    have hpos := hleast h
    rw [hzero, f32Value_zero] at hpos
    norm_num at hpos
  · by_contra! hlt
    have hmono := unitIsMonotone raw 0xFFFFFF7F (Nat.le_of_lt_succ hlt)
    rw [hone, f32Value_one, unitF32_greatest_below_one] at hmono
    exact hmono.not_gt f32Value_before_one
  · have hmono := unitIsMonotone 0xFFFFFF80 raw hge
    rw [unitF32_least_one, f32Value_one] at hmono
    have hone : f32Value (unitF32 raw) = f32Value 0x3F800000 :=
      (le_antisymm (f32Value_unitF32_le_one raw) hmono).trans f32Value_one.symm
    exact f32Value_injective hone (by rw [f32Value_one]; exact one_ne_zero)

/-! ## The affine map of NEXTFLOAT_AB (R94, R97) -/

theorem floatABResult_isNaN (raw a b : U32) (h : (f32IsNaN a || f32IsNaN b) = true) :
    floatABResult raw a b = 0x7FC00000 := by
  have hnan : f32IsNaN 0x7FC00000 = true := by decide
  rw [floatABResult, f32Sub_of_isNaN (by rwa [Bool.or_comm]), f32Mul_of_isNaN (by rw [hnan, Bool.or_true]),
    f32Add_of_isNaN (by rw [hnan, Bool.true_or])]

/-- Equal finite bounds have the difference `+0`. -/
theorem f32Sub_self {a : U32} (ha : f32IsFinite a = true) : f32Sub a a = 0 := by
  obtain ⟨-, -, -, hexact⟩ := differenceIsCorrectlyRounded a a ha ha
  rw [hexact (sub_self _), Bool.and_not_self]
  rfl

/-- Settles O48. -/
theorem floatABCornerCases : Obligations.FloatABCornerCases := by
  intro raw a b
  refine ⟨floatABResult_isNaN raw a b, fun ha => ?_, fun ha hb hd => ?_⟩
  · have hproduct : f32Mul (unitF32 raw) 0 = packF32 false 0 0 := by
      rw [f32Mul_of_significand_eq_zero (f32IsFinite_unitF32 raw) rfl (.inr rfl), f32Sign_unitF32]
      rfl
    rw [floatABResult, f32Sub_self ha, hproduct, f32Add_signed_zero false ha]
    rfl
  · have hproduct : f32Mul (unitF32 0) (f32Sub b a) = packF32 (f32Sign (f32Sub b a)) 0 0 := by
      rw [unitF32_zero, f32Mul_of_significand_eq_zero rfl hd (.inl rfl)]
      exact congrArg (packF32 · 0 0) (Bool.false_bne _)
    rw [floatABResult, hproduct, f32Add_signed_zero _ ha]
    split
    case isTrue hneg =>
      rw [hneg, f32Value_negative_zero, f32Sign_sub_negative_zero hb]
      exact if_congr decide_eq_true_iff rfl rfl
    case isFalse => rfl

/-- A finite rounded difference of bounds in order is not negative. -/
theorem f32Value_sub_nonneg {a b : U32} (ha : f32IsFinite a = true) (hb : f32IsFinite b = true)
    (hab : f32Value a ≤ f32Value b) (hd : f32IsFinite (f32Sub b a) = true) : 0 ≤ f32Value (f32Sub b a) := by
  obtain ⟨hnear, hover, -, -⟩ := differenceIsCorrectlyRounded b a hb ha
  have hnonneg := sub_nonneg.mpr hab
  have hlt : f32Value b - f32Value a < f32OverflowBound := by
    by_contra! hge
    rw [hover hge] at hd
    exact absurd hd (by decide)
  rw [← abs_of_nonneg hnonneg] at hlt
  have hle := (hnear hlt).value_le (w := 0) rfl (by rwa [f32Value_zero])
  rwa [f32Value_zero] at hle

/-- `Unit` times a finite value that is not negative is again such a value. -/
theorem f32Mul_unitF32_nonneg (raw : U32) {d : U32} (hd : f32IsFinite d = true) (hnonneg : 0 ≤ f32Value d) :
    f32IsFinite (f32Mul (unitF32 raw) d) = true ∧ 0 ≤ f32Value (f32Mul (unitF32 raw) d) := by
  obtain ⟨-, hnear, -⟩ := productIsCorrectlyRounded (unitF32 raw) d (f32IsFinite_unitF32 raw) hd
  have hprod := mul_nonneg (f32Value_unitF32_nonneg raw) hnonneg
  have hbound : |f32Value (unitF32 raw) * f32Value d| < f32OverflowBound := by
    refine lt_of_le_of_lt ?_ (abs_f32Value_lt_overflowBound hd)
    rw [abs_of_nonneg hprod, abs_of_nonneg hnonneg]
    exact mul_le_of_le_one_left hnonneg (f32Value_unitF32_le_one raw)
  have hle := (hnear hbound).value_le (w := 0) rfl (by rwa [f32Value_zero])
  exact ⟨(hnear hbound).1, by rwa [f32Value_zero] at hle⟩

/-- Adding a value that is not negative does not go below `a`, by monotone rounding. -/
theorem f32Add_ge_right {p a : U32} (hp : f32IsFinite p = true) (ha : f32IsFinite a = true) (hnonneg : 0 ≤ f32Value p) :
    f32Add p a = 0x7F800000 ∨ (f32IsFinite (f32Add p a) = true ∧ f32Value a ≤ f32Value (f32Add p a)) := by
  obtain ⟨hnear, hover, -, -⟩ := sumIsCorrectlyRounded p a hp ha
  rcases le_or_gt f32OverflowBound (f32Value p + f32Value a) with hge | hlt
  · exact .inl (hover hge)
  · obtain ⟨hlower, -⟩ := abs_lt.mp (abs_f32Value_lt_overflowBound ha)
    have hr := hnear (abs_lt.mpr ⟨by linarith only [hlower, hnonneg], hlt⟩)
    exact .inr ⟨hr.1, hr.value_le ha (le_add_of_nonneg_left hnonneg)⟩

/-- Settles O49. -/
theorem floatABLowerBound : Obligations.FloatABLowerBound := by
  intro raw a b ha hb hab hd
  obtain ⟨hfin, hnonneg⟩ := f32Mul_unitF32_nonneg raw hd (f32Value_sub_nonneg ha hb hab hd)
  exact f32Add_ge_right hfin ha hnonneg

/-! ## R97's first example: the result is one unit in the last place above `b` -/

theorem f32Sub_exceedingBound : f32Sub 0x3E81B8AF 0xC02CF041 = 0x403D2757 := by decide

theorem f32Mul_exceedingBound : f32Mul 0x3F800000 0x403D2757 = 0x403D2757 := by decide

theorem f32Add_exceedingBound : f32Add 0x403D2757 0xC02CF041 = 0x3E81B8B0 := by decide

theorem floatABResult_exceedingBound : floatABResult 0xFFFFFFFF 0xC02CF041 0x3E81B8AF = 0x3E81B8B0 := by
  rw [floatABResult, unitF32_greatest, f32Sub_exceedingBound, f32Mul_exceedingBound, f32Add_exceedingBound]

/-- Settles O50: the bounds lie on either side of 0, and the result is above `b`. -/
theorem floatABUpperBoundCanFail : Obligations.FloatABUpperBoundCanFail := by
  have ha : f32Value 0xC02CF041 = -11333697 * 2 ^ (-22 : Int) :=
    (f32Value_of_parts true 11333697 (-22) rfl rfl rfl).trans (by norm_num)
  have hb : f32Value 0x3E81B8AF = 8501423 * 2 ^ (-25 : Int) :=
    (f32Value_of_parts false 8501423 (-25) rfl rfl rfl).trans (by norm_num)
  have hr : f32Value 0x3E81B8B0 = 8501424 * 2 ^ (-25 : Int) :=
    (f32Value_of_parts false 8501424 (-25) rfl rfl rfl).trans (by norm_num)
  refine ⟨0xFFFFFFFF, 0xC02CF041, 0x3E81B8AF, rfl, rfl, ?_, ?_, ?_, ?_⟩
  · rw [ha, hb]
    norm_num
  · rw [f32Sub_exceedingBound]
    rfl
  · rw [floatABResult_exceedingBound]
    rfl
  · rw [floatABResult_exceedingBound, hb, hr]
    norm_num

end Sys2Proof.Machine

/-! SUPPORT. The host's shuffle (R110 to R115): the swap, the pure function `Shuffle` on the list alone, one command of the
sequence as a transaction, and the host's loop as that function. -/

namespace Sys2Proof.Machine

/-! ## The swap (R114) -/

theorem swapAt_of_lt {α : Type} (xs : List α) (i j : Nat) (hi : i < xs.length) (hj : j < xs.length) :
    swapAt xs i j = (xs.set i xs[j]).set j xs[i] := by
  rw [swapAt, List.getElem?_eq_getElem hi, List.getElem?_eq_getElem hj]

/-- With a position outside the list nothing moves. -/
theorem swapAt_perm {α : Type} (xs : List α) (i j : Nat) : (swapAt xs i j).Perm xs := by
  unfold swapAt
  split
  · next x y hx hy =>
    obtain ⟨hi, rfl⟩ := List.getElem?_eq_some_iff.mp hx
    obtain ⟨hj, rfl⟩ := List.getElem?_eq_some_iff.mp hy
    exact List.set_set_perm hi hj
  · exact .refl _

/-- A swap moves elements by their positions alone (R113). -/
theorem swapAt_map {α β : Type} (f : α → β) (xs : List α) (i j : Nat) :
    swapAt (xs.map f) i j = (swapAt xs i j).map f := by
  rw [swapAt, swapAt, List.getElem?_map, List.getElem?_map]
  cases xs[i]? with
  | none => rfl
  | some x =>
    cases xs[j]? with
    | none => rfl
    | some y => simp only [Option.map_some, List.map_set]

/-- Settles O51. -/
theorem swapExchangesTwoPositions : Obligations.SwapExchangesTwoPositions := by
  intro α xs i j hi hj
  have hswap := swapAt_of_lt xs i j hi hj
  have hj' : j < (xs.set i xs[j]).length := by rwa [List.length_set]
  refine ⟨(swapAt_perm xs i j).length_eq, ?_, ?_, fun k hki hkj => ?_⟩
  · rw [hswap, List.getElem?_eq_getElem hj]
    rcases eq_or_ne i j with rfl | hij
    · exact List.getElem?_set_self hj'
    · rw [List.getElem?_set_ne hij.symm, List.getElem?_set_self hi]
  · rw [hswap, List.getElem?_eq_getElem hi, List.getElem?_set_self hj']
  · rw [hswap, List.getElem?_set_ne hkj.symm, List.getElem?_set_ne hki.symm]

/-! ## The pure function (R115) -/

/-- One index of R115, in the spec's own `T` and `X`. -/
theorem pureShuffleFrom_succ {α : Type} (i : Nat) (x : U64) (xs : List α) :
    pureShuffleFrom (i + 1) x xs =
      pureShuffleFrom i (streamNext x) (swapAt xs (i + 1) ((streamValue (streamNext x)).toNat % (i + 2))) := by
  rw [pureShuffleFrom, transition_eq_streamNext, extract_eq_streamValue]

/-- The register counts the swaps: one draw for each. -/
theorem pureShuffleFrom_seed {α : Type} (i : Nat) (x : U64) (xs : List α) :
    (pureShuffleFrom i x xs).1 = streamAfter i x := by
  induction i generalizing x xs with
  | zero => rfl
  | succ i ih => rw [pureShuffleFrom_succ, ih]; rfl

theorem pureShuffleFrom_perm {α : Type} (i : Nat) (x : U64) (xs : List α) :
    (pureShuffleFrom i x xs).2.Perm xs := by
  induction i generalizing x xs with
  | zero => exact .refl _
  | succ i ih => exact (ih _ _).trans (swapAt_perm xs _ _)

theorem pureShuffleFrom_map {α β : Type} (f : α → β) (i : Nat) (x : U64) (xs : List α) :
    (pureShuffleFrom i x (xs.map f)).2 = (pureShuffleFrom i x xs).2.map f := by
  induction i generalizing x xs with
  | zero => rfl
  | succ i ih => rw [pureShuffleFrom_succ, swapAt_map, ih, pureShuffleFrom_succ]

/-! ## One command of the sequence (R76, R110) -/

/-- The command for index `i` draws once and is answered OK with a position from 0 to `i`. The range `i + 1` is not 0 as a
word. -/
theorem transact_shuffleCommand (i : Nat) (s : State) (hi : i + 1 < 2 ^ 32) :
    ∃ (t : State) (j : U32), transact (encode (shuffleCommand i)) s = .next t ∧ t.seed = streamNext s.seed ∧
      t.responses = s.responses ++ [⟨.ok, j⟩] ∧ j.toNat = (streamValue (streamNext s.seed)).toNat % (i + 1) := by
  have hrange : (BitVec.ofNat 32 (i + 1)).toNat = i + 1 := Nat.mod_eq_of_lt hi
  have hne : BitVec.ofNat 32 (i + 1) ≠ 0 := fun hzero =>
    Nat.succ_ne_zero i (hrange.symm.trans (congrArg BitVec.toNat hzero))
  obtain ⟨t, hexec, -, ⟨-, hresponses, -⟩, hdraw, -⟩ := nextIntUAnswersRemainder (BitVec.ofNat 32 (i + 1)) s
  obtain ⟨hseed, j, hanswer, hj, -⟩ := hdraw hne
  have hrun : runWord (encode (shuffleCommand i)) s = .next t := (runWord_instr _ _ s (decode_encode _)).trans hexec
  refine ⟨t.deliver, j, transact_of_runWord _ s t hrun, (deliver_seed t).trans hseed, ?_, hj.trans (by rw [hrange])⟩
  rw [deliver_responses, hresponses, hanswer, Option.toList_some]

/-! ## The host's loop (R110, R111, R115) -/

/-- The host swaps by the response its command was given, the newest (R110). -/
theorem hostShuffleFrom_succ {α : Type} (i : Nat) (s t : State) (xs : List α) (j : U32)
    (hcommand : transact (encode (shuffleCommand (i + 1))) s = .next t)
    (hresponses : t.responses = s.responses ++ [⟨.ok, j⟩]) :
    hostShuffleFrom (i + 1) s xs = hostShuffleFrom i t (swapAt xs (i + 1) j.toNat) := by
  have hswap : swapByResponse xs (i + 1) t.responses.getLast? = swapAt xs (i + 1) j.toNat := by
    rw [hresponses, List.getLast?_concat]; rfl
  rw [← hswap, hostShuffleFrom, hcommand]

theorem hostShuffle_of_length_le {α : Type} (s : State) (xs : List α) (h : xs.length ≤ 2 ^ 32 - 1) :
    hostShuffle s xs = some (hostShuffleFrom (xs.length - 1) s xs) :=
  if_pos h

/-- The loop from index `i` ends in one state, whatever list it permutes (R113), and permutes every list as the pure function
of the register does (R115). By induction on the index. -/
theorem hostShuffleFrom_eq_pure (i : Nat) (s : State) (hi : i + 1 < 2 ^ 32) :
    ∃ (t : State) (rs : List Response),
      (∀ (α : Type) (xs : List α), hostShuffleFrom i s xs = .next (t, (pureShuffleFrom i s.seed xs).2)) ∧
      t.seed = streamAfter i s.seed ∧ t.responses = s.responses ++ rs ∧ rs.length = i ∧ ∀ r ∈ rs, r.st = .ok := by
  induction i generalizing s with
  | zero => exact ⟨s, [], fun _ _ => rfl, rfl, (List.append_nil _).symm, rfl, List.forall_mem_nil _⟩
  | succ i ih =>
    obtain ⟨m, j, hcommand, hseed, hresponse, hj⟩ := transact_shuffleCommand (i + 1) s hi
    obtain ⟨t, rs, hloop, htseed, hresponses, hlength, hok⟩ := ih m (by omega)
    refine ⟨t, ⟨.ok, j⟩ :: rs, fun α xs => ?_, ?_, ?_, congrArg (· + 1) hlength, List.forall_mem_cons.mpr ⟨rfl, hok⟩⟩
    · rw [hostShuffleFrom_succ i s m xs j hcommand hresponse, hloop, hseed, hj, pureShuffleFrom_succ]
    · rw [htseed, hseed]; rfl
    · rw [hresponses, hresponse, List.append_assoc, List.singleton_append]

/-- The whole shuffle of lists of one length: the same final state for all of them. -/
theorem hostShuffle_eq_pure (n : Nat) (s : State) (hn : n ≤ 2 ^ 32 - 1) :
    ∃ (t : State) (rs : List Response),
      (∀ (α : Type) (xs : List α), xs.length = n → hostShuffle s xs = some (.next (t, (pureShuffle s.seed xs).2))) ∧
      t.seed = streamAfter (n - 1) s.seed ∧ t.responses = s.responses ++ rs ∧ rs.length = n - 1 ∧
      ∀ r ∈ rs, r.st = .ok := by
  obtain ⟨t, rs, hloop, hkeeps⟩ := hostShuffleFrom_eq_pure (n - 1) s (by omega)
  refine ⟨t, rs, fun α xs hlength => ?_, hkeeps⟩
  subst hlength
  rw [hostShuffle_of_length_le s xs hn, hloop, pureShuffle]

/-- A sequence of at most one element needs no command (R111). -/
theorem hostShuffle_of_length_le_one {α : Type} (s : State) (xs : List α) (h : xs.length ≤ 1) :
    hostShuffle s xs = some (.next (s, xs)) := by
  have hindex : xs.length - 1 = 0 := Nat.sub_eq_zero_of_le h
  rw [hostShuffle_of_length_le s xs (h.trans (by decide)), hindex, hostShuffleFrom]

/-- Settles O52. -/
theorem shuffleIsPermutation : Obligations.ShuffleIsPermutation := by
  intro α s xs _ hn
  obtain ⟨t, rs, hshuffle, hseed, hresponses, hlength, hok⟩ := hostShuffle_eq_pure xs.length s hn
  refine ⟨t, _, rs, hshuffle α xs rfl, pureShuffleFrom_perm _ _ xs, hseed, hresponses, hlength, hok, fun hshort => ?_⟩
  have hsame := (hshuffle α xs rfl).symm.trans (hostShuffle_of_length_le_one s xs hshort)
  obtain ⟨ht, hys⟩ := Prod.mk.inj (Host.Outcome.next.inj (Option.some.inj hsame))
  exact ⟨hys, ht⟩

/-- Settles O53. -/
theorem shuffleMatchesPureFunction : Obligations.ShuffleMatchesPureFunction := by
  intro α s xs _ hn
  obtain ⟨t, rs, hshuffle, hseed, -⟩ := hostShuffle_eq_pure xs.length s hn
  refine ⟨t, _, hshuffle α xs rfl, Prod.ext ?_ rfl⟩
  rw [hseed, pureShuffle, pureShuffleFrom_seed]

/-- Settles O54: the state the shuffle ends in does not depend on the list, and the pure function moves elements by their
positions alone. -/
theorem shuffleIgnoresElements : Obligations.ShuffleIgnoresElements := by
  intro α β f s xs _ hn
  obtain ⟨t, rs, hshuffle, -⟩ := hostShuffle_eq_pure xs.length s hn
  refine ⟨t, _, hshuffle α xs rfl, ?_⟩
  rw [hshuffle β (xs.map f) (List.length_map f), pureShuffle, pureShuffleFrom_map, List.length_map, pureShuffle]

end Sys2Proof.Machine

/-! SUPPORT. The exceptions (60_exceptions.md): a command fails its operand checks exactly for R122's causes, and no state stops the
block. -/

namespace Sys2Proof.Machine

/-! ## The causes of ERR_OPERAND (R122) -/

/-- R122's list of causes, with the operands as the integers they stand for. -/
def IsOperandErrorCause (i : Instr) : Prop :=
  i = .nextIntU 0 ∨ ∃ a b : U32, i = .nextIntS a b ∧
    (b.toInt < a.toInt ∨ (a.toInt = -2147483648 ∧ b.toInt = 2147483647))

theorem rejected_of_isOperandErrorCause (i : Instr) (h : IsOperandErrorCause i) : i.accepted = false := by
  obtain rfl | ⟨a, b, rfl, hbounds⟩ := h
  · rfl
  · exact rejected_nextIntS a b hbounds

/-- Only the two integer samplers with operands have a check to fail. -/
theorem isOperandErrorCause_of_rejected (i : Instr) (h : i.accepted = false) : IsOperandErrorCause i := by
  cases i with
  | nextIntU range =>
    have hzero : range = 0 := by
      by_contra hrange
      exact Bool.false_ne_true (h.symm.trans (accepted_nextIntU range hrange))
    exact .inl (congrArg Instr.nextIntU hzero)
  | nextIntS a b =>
    refine .inr ⟨a, b, rfl, ?_⟩
    by_contra hgood
    obtain ⟨hab, hfull⟩ := not_or.mp hgood
    exact Bool.false_ne_true (h.symm.trans (accepted_nextIntS a b (not_lt.mp hab) hfull))
  | seed | nextRaw | nextBool | nextFloat | nextFloatAB => cases h

theorem rejected_iff_isOperandErrorCause (i : Instr) : i.accepted = false ↔ IsOperandErrorCause i :=
  ⟨isOperandErrorCause_of_rejected i, rejected_of_isOperandErrorCause i⟩

/-- Settles O23: the status is ERR_OPERAND exactly for a command that is not accepted, which then makes no draw. -/
theorem operandErrorCauses : Obligations.OperandErrorCauses := by
  intro i s
  obtain ⟨t, hexec, -, hseed, hanswer, -⟩ := exec_and_words i s
  refine ⟨t, _, hexec, hanswer, ?_⟩
  rw [← IsOperandErrorCause, ← rejected_iff_isOperandErrorCause]
  cases hacc : i.accepted with
  | true => simp [responseOf_accepted i _ hacc]
  | false =>
    have hkept : t.seed = s.seed := hseed.trans (seedAfter_rejected i s.seed hacc)
    simp [responseOf_rejected i _ hacc, hkept]

/-! ## The block goes on (R120, R126, R127, R135) -/

/-- Settles O33. -/
theorem blockNeverStops : Obligations.BlockNeverStops := step_next

/-- Settles O30. -/
theorem idleBlockHoldsSeed : Obligations.IdleBlockHoldsSeed := by
  intro s idle hpending
  exact step_idle s hpending idle

end Sys2Proof.Machine

/-! SUPPORT. Reset at the interface (70_reset_and_hazards.md R140): the outputs in reset and of an idle block, and an idle block
that is presented nothing keeps its state on every edge. -/

namespace Sys2Proof.Machine

/-! ## The outputs in reset and of an idle block (R43, R140) -/

theorem cmdReady_rst (s : State) : cmdReady s true = false := rfl

theorem rspValid_rst (s : State) : rspValid s true = false := rfl

theorem cmdReady_idle (s : State) (idle : s.inFlight = none) : cmdReady s false = true := by
  rw [cmdReady, idle]; rfl

theorem rspValid_idle (s : State) (idle : s.inFlight = none) : rspValid s false = false := by
  rw [rspValid, idle]; rfl

theorem rspBus_of_not_rspValid (s : State) (rst : Bool) (h : rspValid s rst = false) : rspBus s rst = none := by
  rw [rspBus, h]; rfl

/-! ## Edges on an idle block -/

theorem clockEdge_idle (p : Pins) (s : State) (h : p.rst = false) (idle : s.inFlight = none) (hv : p.cmdValid = false) :
    clockEdge p s = .next s := by
  simp [clockEdge, h, cmdReady_idle s idle, hv]

theorem clockEdges_idle (ps : List Pins) (s : State) (idle : s.inFlight = none)
    (h : ∀ p ∈ ps, p.rst = false ∧ p.cmdValid = false) : clockEdges ps s = .next s := by
  induction ps with
  | nil => rfl
  | cons p ps ih =>
    obtain ⟨⟨hrst, hvalid⟩, hps⟩ := List.forall_mem_cons.mp h
    rw [clockEdges_cons p ps s s (clockEdge_idle p s hrst idle hvalid), ih hps]

/-! ## Reset (R140) -/

/-- Settles O56: the edge leaves the block idle, and an idle block answers nothing until a command is presented. -/
theorem resetEdgeAbandonsCommand : Obligations.ResetEdgeAbandonsCommand := by
  intro p s hrst
  have idle : s.hardReset.inFlight = none := State.hardReset_inFlight s
  have hvalid : rspValid s.hardReset false = false := rspValid_idle _ idle
  exact ⟨hrst ▸ cmdReady_rst s, hrst ▸ rspValid_rst s, s.hardReset, clockEdge_reset p s hrst, idle,
    State.hardReset_responses s, State.hardReset_pending s, cmdReady_idle _ idle, hvalid,
    rspBus_of_not_rspValid _ false hvalid, fun qs hqs => clockEdges_idle qs _ idle hqs⟩

/-- Settles O32. -/
theorem resetStateIsIdle : Obligations.ResetStateIsIdle :=
  have idle : State.reset.inFlight = none := rfl
  ⟨idle, cmdReady_idle _ idle, rspValid_idle _ idle, rfl⟩

end Sys2Proof.Machine

/-! SUPPORT. A run's record (R123, R141, R151): the model's marks after every command, what one answered command adds to the record,
and the invariant that every step keeps. -/

namespace Sys2Proof.Machine

/-! ## The three ways a command executes (R64, R66, R80) -/

/-- SEED loads its operand, an accepted sampler draws once and computes its result from the draw, and a command that fails its
operand checks ends in ERR_OPERAND. -/
theorem exec_cases (i : Instr) (s : State) :
    (∃ ab, i = .seed ab ∧ exec i s = .next ((s.loadSeed ab).respond (.okay 0))) ∨
    (i.accepted = true ∧ i.isSeed = false ∧ ∃ result, exec i s = .next (s.sample result)) ∨
    (i.accepted = false ∧ exec i s = .next (s.raiseError .errOperand)) := by
  cases i with
  | seed ab => exact .inl ⟨ab, rfl, rfl⟩
  | nextRaw | nextBool | nextFloat | nextFloatAB => exact .inr (.inl ⟨rfl, rfl, _, rfl⟩)
  | nextIntU range =>
    simp only [exec, execNextIntU, rangeOk_eq_accepted]
    split
    · next hok => exact .inr (.inl ⟨hok, rfl, _, rfl⟩)
    · next hbad => exact .inr (.inr ⟨eq_false_of_ne_true hbad, rfl⟩)
  | nextIntS a b =>
    simp only [exec, execNextIntS, boundsOk_eq_accepted]
    split
    · next hok => exact .inr (.inl ⟨hok, rfl, _, rfl⟩)
    · next hbad => exact .inr (.inr ⟨eq_false_of_ne_true hbad, rfl⟩)

/-! ## The marks (logs 3 and 4) -/

/-- Settles O26. -/
theorem marksOfEveryCommand : Obligations.MarksOfEveryCommand := by
  intro i s
  obtain ⟨ab, rfl, hexec⟩ | ⟨hok, hsampler, result, hexec⟩ | ⟨hbad, hexec⟩ := exec_cases i s
  · refine ⟨_, hexec, (Bool.or_true _).symm, ?_⟩
    simp [Instr.accepted, Instr.draws, Instr.isSeed]
  · have hdraws : i.draws = 1 := by rw [draws_of_not_seed i hsampler, if_pos hok]
    refine ⟨_, hexec, by simp [hsampler], ?_⟩
    cases hwritten : s.seedWritten <;> simp [hok, hdraws, hwritten]
  · have hsampler := not_isSeed_of_rejected i hbad
    refine ⟨_, hexec, by simp [hsampler], ?_⟩
    simp [hbad, Status.runFault]

/-! ## The responses of a run -/

theorem allResponses_idle (s : State) (idle : s.inFlight = none) : s.allResponses = s.responses := by
  simp [State.allResponses, State.answer, idle]

/-- Delivery moves the response in flight to the delivered ones. -/
theorem deliver_allResponses (s : State) : s.deliver.allResponses = s.allResponses := by
  rw [allResponses_idle _ (deliver_inFlight s), deliver_responses, State.allResponses]

/-- `t` is `s` with one more command answered, by `r`: an error carries no result, and a run that is still clean was clean before,
got no error and has had its SEED. -/
structure AnsweredBy (r : Response) (s t : State) : Prop where
  allResponses : t.allResponses = s.allResponses ++ [r]
  no_result : r.st ≠ .ok → r.res = 0
  clean : t.clean → s.clean ∧ r.st = .ok ∧ t.seedWritten = true

theorem loadSeed_answeredBy (s : State) (idle : s.inFlight = none) (v : U64) :
    AnsweredBy (.okay 0) s ((s.loadSeed v).respond (.okay 0)) where
  allResponses := by rw [allResponses_idle s idle]; rfl
  no_result := fun _ => rfl
  clean := fun hclean => ⟨hclean, rfl, rfl⟩

/-- A draw before the first SEED leaves its mark, so in a clean run a draw finds the SEED issued. -/
theorem sample_answeredBy (s : State) (idle : s.inFlight = none) (result : U32 → U32) :
    AnsweredBy (.okay (result s.drawValue)) s (s.sample result) where
  allResponses := by rw [allResponses_idle s idle, State.allResponses, State.sample_responses]; rfl
  no_result := fun hst => absurd rfl hst
  clean := fun hclean => by
    rw [State.clean, State.sample_runFault] at hclean
    rw [State.sample_seedWritten]
    split at hclean
    · next hwritten => exact ⟨hclean, rfl, hwritten⟩
    · simp at hclean

/-- Every error status leaves its mark, so after an error response no run is clean. -/
theorem raiseError_answeredBy (s : State) (idle : s.inFlight = none) (st : Status) (hst : st ≠ .ok) :
    AnsweredBy (.error st) s (s.raiseError st) where
  allResponses := by rw [allResponses_idle s idle]; rfl
  no_result := fun _ => rfl
  clean := fun hclean => by
    rw [State.clean, State.raiseError_runFault, Option.or_eq_none_iff] at hclean
    obtain ⟨-, hmark⟩ := hclean
    cases st with
    | ok => exact absurd rfl hst
    | errIllegalCmd | errOperand => cases hmark

theorem exec_answeredBy (i : Instr) (s : State) (idle : s.inFlight = none) :
    ∃ t r, exec i s = .next t ∧ AnsweredBy r s t := by
  obtain ⟨ab, -, hexec⟩ | ⟨-, -, result, hexec⟩ | ⟨-, hexec⟩ := exec_cases i s
  · exact ⟨_, _, hexec, loadSeed_answeredBy s idle ab⟩
  · exact ⟨_, _, hexec, sample_answeredBy s idle result⟩
  · exact ⟨_, _, hexec, raiseError_answeredBy s idle _ nofun⟩

theorem runWord_answeredBy (w : CommandWord) (s : State) (idle : s.inFlight = none) :
    ∃ t r, runWord w s = .next t ∧ AnsweredBy r s t := by
  cases hdec : decode w with
  | instr i =>
    rw [runWord_instr w i s hdec]
    exact exec_answeredBy i s idle
  | rejected e =>
    rw [runWord_rejected w e s hdec]
    exact ⟨_, _, rfl, raiseError_answeredBy s idle _ nofun⟩

/-! ## The invariant of a run (R123, R141) -/

theorem runInv_of_no_responses (s : State) (h : s.allResponses = []) : s.runInv := by
  refine ⟨?_, ?_, fun _ _ => h⟩ <;> simp [h]

/-- The invariant reads the record and the marks, which delivery keeps. -/
theorem deliver_runInv (s : State) (h : s.runInv) : s.deliver.runInv := by
  rw [State.runInv, State.clean] at h ⊢
  rwa [deliver_allResponses, deliver_runFault, deliver_seedWritten]

/-- One more answered command keeps the invariant. -/
theorem AnsweredBy.runInv {r : Response} {s t : State} (h : AnsweredBy r s t) (hs : s.runInv) : t.runInv := by
  obtain ⟨hresult, hok, -⟩ := hs
  rw [State.runInv, h.allResponses]
  refine ⟨?_, fun hclean => ?_, fun hclean hunwritten => ?_⟩
  · exact List.forall_mem_append.mpr ⟨hresult, List.forall_mem_singleton.mpr h.no_result⟩
  · obtain ⟨hbefore, hst, -⟩ := h.clean hclean
    exact List.forall_mem_append.mpr ⟨hok hbefore, List.forall_mem_singleton.mpr hst⟩
  · obtain ⟨-, -, hwritten⟩ := h.clean hclean
    exact absurd (hunwritten.symm.trans hwritten) Bool.false_ne_true

/-- A transaction answers one command and delivers the answer. -/
theorem transact_runInv (w : CommandWord) (s t : State) (idle : s.inFlight = none) (hs : s.runInv)
    (h : transact w s = .next t) : t.runInv := by
  obtain ⟨u, r, hrun, hanswered⟩ := runWord_answeredBy w s idle
  rw [transact, hrun, onNext_next] at h
  obtain rfl := Host.Outcome.next.inj h
  exact deliver_runInv u (hanswered.runInv hs)

/-- Settles O37, by the four things a step can do; taking an event touches neither the record nor the marks. -/
theorem runInvariantKept : Obligations.RunInvariantKept := by
  intro s t hs hstep
  obtain ⟨es, -, hreset⟩ | ⟨f, -, hdeliver⟩ | ⟨w, es, -, idle, hcommand⟩ | ⟨-, -, hidle⟩ := step_cases s
  · obtain rfl := Host.Outcome.next.inj (hreset.symm.trans hstep)
    exact runInv_of_no_responses _ rfl
  · obtain rfl := Host.Outcome.next.inj (hdeliver.symm.trans hstep)
    exact deliver_runInv s hs
  · exact transact_runInv w s.takeEvent t idle hs (hcommand.symm.trans hstep)
  · obtain rfl := Host.Outcome.next.inj (hidle.symm.trans hstep)
    exact hs

/-- Settles O38. -/
theorem runInvariantAtReset : Obligations.RunInvariantAtReset := runInv_of_no_responses State.reset rfl

/-! ## Steps that run no command (R43, R140) -/

/-- Settles O29. -/
theorem waitingResponseIsDelivered : Obligations.WaitingResponseIsDelivered := by
  intro s f busy hnoreset
  have hstep := step_answering s f busy hnoreset
  rw [deliver_answered s f busy] at hstep
  exact ⟨_, hstep, rfl, rfl, rfl, rfl⟩

/-- Settles O31. -/
theorem resetLeavesBlockIdle : Obligations.ResetLeavesBlockIdle := by
  intro s es h
  have hstep := step_reset s es h
  rw [takeEvent_of_pending s _ es h] at hstep
  have idle := State.hardReset_inFlight { s with pending := es }
  exact ⟨_, hstep, idle, cmdReady_idle _ idle, rspValid_idle _ idle, rfl, rfl, rfl, rfl⟩

end Sys2Proof.Machine
